-- ==== Sys2Proof/Word.lean ====
section
/-! DEFINITION. The data widths of the hardware (00_scope R6, R8): registers, register addresses and wire
slots are one byte; the I2C bus address has 7 bits; a pin is a logical identifier. -/

namespace Sys2Proof

/-- One 8-bit unsigned value, bit 7 most significant (R8). -/
abbrev Byte := BitVec 8

/-- The 7-bit bus address of the handle (R22). -/
abbrev I2cAddr := BitVec 7

/-- DESIGN CHOICE (safe), log entry 16: a logical GPIO identifier, opaque to every rule (R7 `PIN_ID`); only
its identity is ever used, as the argument of a pin event. -/
abbrev PinId := Nat

/-- DESIGN CHOICE (safe), log entry 29: what a transfer primitive reports when it fails (R240, R242). The spec gives it
no fields (N25); it is only ever passed on unchanged. -/
abbrev FaultReport := Nat

end Sys2Proof
end

