-- ==== Sys2Proof/Syntax.lean ====
section
/-! DEFINITION. The four wire commands (30_encoding R94, 41_wire_commands R151 to R154), their formats and the
frame each is sent as (R90, R122); and what the requester can ask for: the engine's requests (42 R204) and the
client layer's operations (43 R221 to R228). -/

namespace Sys2Proof

/-- The wire commands: one constructor per row of the opcode table (R94). -/
inductive Instr where
  /-- `RSTIF`, `resetInterface()` (R151). -/
  | rstif
  /-- `SETPTR addr`, `setRegisterPointer(addr)` (R152). -/
  | setptr (addr : Byte)
  /-- `WRPTR data`, `writePointedRegister(data)` (R154). -/
  | wrptr (data : Byte)
  /-- `RDPTR`, `readPointedRegister()` (R153). -/
  | rdptr
  deriving DecidableEq, Repr

/-- The op-codes by name, as the target's parser remembers them (R39). -/
inductive Opcode where
  | rstif
  | setptr
  | wrptr
  | rdptr
  deriving DecidableEq, Repr

/-- The op-codes that are followed by an operand byte: `PS_OPERAND(op)`, op one of 0x7A, 0x7D, 0x7E (R39). -/
inductive OperandOp where
  | rstif
  | setptr
  | wrptr
  deriving DecidableEq, Repr

/-- The two command formats (R90): two command bytes; or one command byte and a reply slot. -/
inductive Format where
  | f2
  | f1r
  deriving DecidableEq, Repr

/-- The argument of a frame load `(c0, c1, len, cap)` (R122): command bytes, how many of them are sent, and how
many reply bytes are captured. `c1` is not used when `len` is 1. -/
structure FrameReq where
  c0 : Byte
  c1 : Byte
  len : Nat
  cap : Nat
  deriving DecidableEq, Repr

/-- The requests of the engine's one request channel (R204). -/
inductive Request where
  | readRegister (addr : Byte)
  | writeRegister (addr value : Byte)
  | initSpi (chipSelectPin resetPin : PinId)
  | initI2c (address : I2cAddr) (resetPin : PinId)
  deriving DecidableEq, Repr

/-- The operations a caller can ask of the client layer (R226), and a request handed straight to the selector
(R200). Channel numbers and counts are unbounded, since the layer itself must check them (R227, R228). -/
inductive ClientOp where
  /-- One request to the selector, its response handed back. -/
  | request (q : Request)
  /-- `initSPI` followed by the default configuration writes (R196, R205). -/
  | initSpi (chipSelectPin resetPin : PinId)
  /-- `initI2C` followed by the default configuration writes (R195, R205). -/
  | initI2c (address : I2cAddr) (resetPin : PinId)
  | getProductId
  | getManufacturerId
  | getRevision
  /-- Read-inputs-and-clear-interrupt (R221). -/
  | getSensorInputs
  | setMultipleTouchConfiguration (enable : Bool) (simultaneousCount : Nat)
  | setSensorInputLedLinking (mask : Byte)
  | setSensorInputThreshold (channel : Nat) (value : Byte)
  | getSensorInputThreshold (channel : Nat)
  /-- The known-unreliable write to all thresholds at once, to which the spec gives no meaning (R230, U6). -/
  | writeAllThresholds
  deriving DecidableEq, Repr

end Sys2Proof
end

