-- ==== Sys2Proof/WellFormed.lean ====
section
/-! DEFINITION. The checks the spec puts on what is sent and asked: frame loads (40_framing R122), windows
(30_encoding R97), the client layer's arguments (43 R227, R228), and the pins the host hands over (70 R301). The
engine itself checks no operand: every byte is a legal address and a legal datum (R62, R93). -/

namespace Sys2Proof

/-- The precondition of a frame load: one or two command bytes, none or one reply byte, two slots in all
(R122). -/
def FrameReq.twoSlots (f : FrameReq) : Bool :=
  (f.len == 1 || f.len == 2) && (f.cap == 0 || f.cap == 1) && f.len + f.cap == 2

/-- The load is one of the only four that ever occur (R122, R96). -/
def FrameReq.isCommand (f : FrameReq) : Bool :=
  (f.c0 == 0x7A && f.c1 == 0x7A && f.len == 2 && f.cap == 0)
    || (f.c0 == 0x7D && f.len == 2 && f.cap == 0)
    || (f.c0 == 0x7E && f.len == 2 && f.cap == 0)
    || (f.c0 == 0x7F && f.len == 1 && f.cap == 1)

/-- A frame load the engine may make. -/
def FrameReq.wellFormed (f : FrameReq) : Bool := f.twoSlots && f.isCommand

/-- The bytes on the initiator's output line in a whole window make one complete command (R97: every other
window is malformed, whatever the target's state). -/
def windowWellFormed : List Byte → Bool
  | [b0, b1] => (b0 == 0x7A && b1 == 0x7A) || b0 == 0x7D || b0 == 0x7E || b0 == 0x7F
  | _ => false

/-- A legal sensor channel number: 1 to 8 (R6, R227). -/
def channelOk (c : Nat) : Bool := decide (1 ≤ c) && decide (c ≤ 8)

/-- A legal simultaneous-touch count: 1 to 4 (R6, R228). -/
def touchCountOk (n : Nat) : Bool := decide (1 ≤ n) && decide (n ≤ 4)

/-- The host keeps to R301 with the pins it hands over: chip-select and reset pin of `initSPI` are two pins. The
engine does not check it (R196); it is the requester that has no move for the rest. Log entry 28. -/
def Request.pinsOk : Request → Bool
  | .readRegister _ => true
  | .writeRegister _ _ => true
  | .initSpi cs rst => cs != rst
  | .initI2c _ _ => true

/-- The client layer's argument check (R227 to R229). -/
def ClientOp.argsOk : ClientOp → Bool
  | .request _ => true
  | .initSpi _ _ => true
  | .initI2c _ _ => true
  | .getProductId => true
  | .getManufacturerId => true
  | .getRevision => true
  | .getSensorInputs => true
  | .setMultipleTouchConfiguration enable n => !enable || touchCountOk n
  | .setSensorInputLedLinking _ => true
  | .setSensorInputThreshold c _ => channelOk c
  | .getSensorInputThreshold c => channelOk c
  | .writeAllThresholds => true

end Sys2Proof
end

