-- ==== Sys2Proof/Decode.lean ====
section
/-! DEFINITION. The command encoding (30_encoding R90 to R97): the decoder, total on any bytes and rejecting by
name, and after it the encoder, both over the command bytes in wire order (slot 0 first, R65). -/

namespace Sys2Proof

/-- Why command bytes are no command: the malformed classes of R97. -/
inductive DecodeError where
  /-- No byte at all: the empty window. -/
  | empty
  /-- Slot 0 is none of the four op-codes. -/
  | reservedOpcode (b : Byte)
  /-- 0x7A followed by a byte other than 0x7A. -/
  | reservedSecondByte (b : Byte)
  /-- A two-byte command cut after its op-code. -/
  | short (op : OperandOp)
  /-- A complete command followed by a further command byte. -/
  | long
  deriving DecidableEq, Repr

/-- Op-code of `RSTIF` (R94). -/
def opRstif : Byte := 0x7A

/-- Op-code of `SETPTR` (R94). -/
def opSetptr : Byte := 0x7D

/-- Op-code of `WRPTR` (R94). -/
def opWrptr : Byte := 0x7E

/-- Op-code of `RDPTR` (R94). -/
def opRdptr : Byte := 0x7F

/-- The op-code of slot 0, all eight bits compared (R94, R157). -/
def opcodeOf (b : Byte) : Option Opcode :=
  if b = opRstif then some .rstif
  else if b = opSetptr then some .setptr
  else if b = opWrptr then some .wrptr
  else if b = opRdptr then some .rdptr
  else none

/-- The format of a command is a function of its op-code alone (R95). -/
def Opcode.format : Opcode → Format
  | .rstif => .f2
  | .setptr => .f2
  | .wrptr => .f2
  | .rdptr => .f1r

/-- Command bytes of a format (R90). -/
def Format.commandBytes : Format → Nat
  | .f2 => 2
  | .f1r => 1

/-- Reply bytes of a format (R90). -/
def Format.replyBytes : Format → Nat
  | .f2 => 0
  | .f1r => 1

/-- The command at the head of a list of command bytes, and the bytes after it. -/
def decode : List Byte → Except DecodeError (Instr × List Byte)
  | [] => .error .empty
  | b :: rest =>
    match opcodeOf b, rest with
    | none, _ => .error (.reservedOpcode b)
    | some .rstif, [] => .error (.short .rstif)
    | some .rstif, x :: tail => if x = opRstif then .ok (.rstif, tail) else .error (.reservedSecondByte x)
    | some .setptr, [] => .error (.short .setptr)
    | some .setptr, a :: tail => .ok (.setptr a, tail)
    | some .wrptr, [] => .error (.short .wrptr)
    | some .wrptr, d :: tail => .ok (.wrptr d, tail)
    | some .rdptr, tail => .ok (.rdptr, tail)

/-- The one command that all of the bytes make: one window holds one command (R120). -/
def decodeCommand (bytes : List Byte) : Except DecodeError Instr :=
  match decode bytes with
  | .error e => .error e
  | .ok (i, []) => .ok i
  | .ok (_, _ :: _) => .error .long

/-- The bytes of a frame word of `n` slots, slot 0 in the high bits (R9, R91). Log entry 17. -/
def wordBytes : Nat → Nat → List Byte
  | 0, _ => []
  | n + 1, w => BitVec.ofNat 8 (w / 256 ^ n) :: wordBytes n w

/-- The instruction the decoder reads from a frame word numbered as the opcode table numbers it (R9, R102). -/
def decodeTableWord (nbits w : Nat) : Option Instr :=
  match decodeCommand (wordBytes ((nbits + 7) / 8) w) with
  | .ok i => some i
  | .error _ => none

/-- The command bytes of a command, in wire order (R91, R92, R94). -/
def encode : Instr → List Byte
  | .rstif => [opRstif, opRstif]
  | .setptr addr => [opSetptr, addr]
  | .wrptr data => [opWrptr, data]
  | .rdptr => [opRdptr]

/-- The op-code of a command. -/
def Instr.opcode : Instr → Opcode
  | .rstif => .rstif
  | .setptr _ => .setptr
  | .wrptr _ => .wrptr
  | .rdptr => .rdptr

/-- The frame a command is sent as (R122, R151 to R154); the unused second byte of `RDPTR` is given as 0 and
never loaded. -/
def Instr.frameReq : Instr → FrameReq
  | .rstif => ⟨opRstif, opRstif, 2, 0⟩
  | .setptr addr => ⟨opSetptr, addr, 2, 0⟩
  | .wrptr data => ⟨opWrptr, data, 2, 0⟩
  | .rdptr => ⟨opRdptr, 0, 1, 1⟩

/-- A well-formed instruction: its frame is one the engine may load. -/
def Instr.wellFormed (i : Instr) : Bool := i.frameReq.wellFormed

/-- The mnemonic of a command in the opcode table (R94). -/
def Instr.mnemonic : Instr → String
  | .rstif => "RSTIF"
  | .setptr _ => "SETPTR"
  | .wrptr _ => "WRPTR"
  | .rdptr => "RDPTR"

/-- One row of the opcode table, over the frame word (R94, R102). -/
structure OpRow where
  mnemonic : String
  nbits : Nat
  mask : Nat
  pattern : Nat
  deriving DecidableEq, Repr

/-- The opcode table as the spec prints it (R94). -/
def opTable : List OpRow :=
  [⟨"RSTIF", 16, 0xFFFF, 0x7A7A⟩, ⟨"SETPTR", 16, 0xFF00, 0x7D00⟩, ⟨"WRPTR", 16, 0xFF00, 0x7E00⟩,
   ⟨"RDPTR", 8, 0xFF, 0x7F⟩]

/-- A frame word matches a row (R94). -/
def OpRow.covers (r : OpRow) (nbits w : Nat) : Bool := r.nbits == nbits && (w &&& r.mask) == r.pattern

end Sys2Proof
end

