-- ==== Sys2Proof/Config.lean ====
section
/-! DEFINITION. The parameters the spec leaves open (00_scope R7, 92_eei_decisions D1 to D32) and the free
values of 93_implementation_defined. Log entries 8 and 10. The machine's functions take the parameters as one
argument `P`, so that a statement can quantify over them; the machine itself is the one whose parameters are
the opaque constants below, of which nothing can be proved. -/

namespace Sys2Proof

/-- Bit order inside a byte on the data lines (R7 `BIT_ORDER`); no rule reads it. -/
inductive BitOrder where
  | msbFirst
  | lsbFirst
  deriving DecidableEq, Repr

/-- All parameters of R7, and the free values. Fixed for a whole run (R42). -/
structure Params where
  /-- By how much the reset pulse exceeds 10 ms: `T_RESET_PULSE_MS = 10 + pulseExtraMs` (R285, D14). -/
  pulseExtraMs : Nat
  /-- `T_POST_RESET_MS` (R288, D15). -/
  postResetMs : Nat
  /-- `RD_FILL`: the byte on the initiator's output line in a reply slot (R125, D3). -/
  rdFill : Byte
  /-- `SPI_MODE` (D1); no rule reads it. -/
  spiMode : Nat
  /-- `BIT_ORDER` (D1); no rule reads it. -/
  bitOrder : BitOrder
  /-- `SCK_HZ` (D1); no rule reads it. -/
  sckHz : Nat
  /-- `RF_RESET`: register contents after a hardware reset pulse (R47, D7). -/
  rfReset : Byte → Byte
  /-- The unspecified register contents before any hardware reset pulse (R47). -/
  rfUnpulsed : Byte → Byte
  /-- `IMPLEMENTED(a)` (R63, R64, D17). -/
  implemented : Byte → Bool
  /-- `READABLE(a)` (R63, D17). -/
  readable : Byte → Bool
  /-- `WRITABLE(a)` (R64, D17). -/
  writable : Byte → Bool
  /-- `ENV_WRITES`: the addresses the chip itself may change between windows (R44, D17). -/
  envWrites : Byte → Bool
  /-- `SHIFT_CAN_FAIL` (R131, D9). -/
  shiftCanFail : Bool
  /-- `DEFAULT_CFG` (R205, D21). -/
  defaultCfg : List (Byte × Byte)
  /-- `A_SENSOR_INPUT_STATUS` (R221, D27). -/
  aSensorInputStatus : Byte
  /-- `A_MAIN_CONTROL` (R221, D27). -/
  aMainControl : Byte
  /-- `A_PRODUCT_ID` (R226, D27). -/
  aProductId : Byte
  /-- `A_MANUFACTURER_ID` (R226, D27). -/
  aManufacturerId : Byte
  /-- `A_REVISION` (R226, D27). -/
  aRevision : Byte
  /-- `A_MULTI_TOUCH_CONFIG` (R228, D27). -/
  aMultiTouchConfig : Byte
  /-- `A_LED_LINKING` (R226, D27). -/
  aLedLinking : Byte
  /-- `A_THRESHOLD(c)`, used for `c` in 1..8 only (R227, D27). -/
  aThreshold : Nat → Byte
  /-- `MT_CODE(n)`, used for `n` in 1..4 only (R228, D27). -/
  mtCode : Nat → Byte
  /-- The packed byte of an LED-linking mask; its layout is not in the document (R226, N8). Log entry 18. -/
  ledLinkingByte : Byte → Byte
  /-- Free value: a byte the target drives that no rule fixes (R63, D25, U10), by draw number. -/
  freeReply : Nat → Byte
  /-- Free value: the register pointer once its validity is lost (R37, U2), by draw number. -/
  freePtr : Nat → Byte
  /-- Free value: `T.HOLD` after a hardware reset (R47), by draw number. -/
  freeHold : Nat → Byte
  /-- Free value: whether a write that may or may not take effect did (R64, R160), by draw number. -/
  freeWrite : Nat → Bool
  /-- Free value: the byte an I2C read delivers, by number of the I2C call (R201, D26). -/
  i2cByte : Nat → Byte

namespace Params

/-- `T_RESET_PULSE_MS`: any value that is at least 10 (R285, D14). -/
def resetPulseMs (P : Params) : Nat := 10 + P.pulseExtraMs

/-- The register file's content at an address that nothing has written: `RF_RESET(a)` once a hardware reset
pulse was given, unspecified before the first one (R47). Log entry 7. -/
def unlisted (P : Params) (pulsed : Bool) (a : Byte) : Byte :=
  if pulsed then P.rfReset a else P.rfUnpulsed a

/-- The reference target of D17: every address implemented, readable and writable, none changed by the chip. -/
def ReferenceTarget (P : Params) : Prop :=
  ∀ a, P.implemented a = true ∧ P.readable a = true ∧ P.writable a = true ∧ P.envWrites a = false

/-- The one constraint D27 puts on the threshold addresses: `A_THRESHOLD` is injective on channels 1 to 8. -/
def ThresholdsDistinct (P : Params) : Prop :=
  ∀ c d, 1 ≤ c → c ≤ 8 → 1 ≤ d → d ≤ 8 → P.aThreshold c = P.aThreshold d → c = d

end Params

namespace Config

opaque pulseExtraMs : Nat
opaque postResetMs : Nat
opaque rdFill : Byte
opaque spiMode : Nat
/-- Whether `BIT_ORDER` is most significant bit first. -/
opaque msbFirst : Bool
opaque sckHz : Nat
opaque rfReset : Byte → Byte
opaque rfUnpulsed : Byte → Byte
opaque implemented : Byte → Bool
opaque readable : Byte → Bool
opaque writable : Byte → Bool
opaque envWrites : Byte → Bool
opaque shiftCanFail : Bool
opaque defaultCfg : List (Byte × Byte)
opaque aSensorInputStatus : Byte
opaque aMainControl : Byte
opaque aProductId : Byte
opaque aManufacturerId : Byte
opaque aRevision : Byte
opaque aMultiTouchConfig : Byte
opaque aLedLinking : Byte
opaque aThreshold : Nat → Byte
opaque mtCode : Nat → Byte
opaque ledLinkingByte : Byte → Byte
opaque freeReply : Nat → Byte
opaque freePtr : Nat → Byte
opaque freeHold : Nat → Byte
opaque freeWrite : Nat → Bool
opaque i2cByte : Nat → Byte

/-- The parameters of the machine: every one an opaque constant. -/
def params : Params where
  pulseExtraMs := pulseExtraMs
  postResetMs := postResetMs
  rdFill := rdFill
  spiMode := spiMode
  bitOrder := if msbFirst then .msbFirst else .lsbFirst
  sckHz := sckHz
  rfReset := rfReset
  rfUnpulsed := rfUnpulsed
  implemented := implemented
  readable := readable
  writable := writable
  envWrites := envWrites
  shiftCanFail := shiftCanFail
  defaultCfg := defaultCfg
  aSensorInputStatus := aSensorInputStatus
  aMainControl := aMainControl
  aProductId := aProductId
  aManufacturerId := aManufacturerId
  aRevision := aRevision
  aMultiTouchConfig := aMultiTouchConfig
  aLedLinking := aLedLinking
  aThreshold := aThreshold
  mtCode := mtCode
  ledLinkingByte := ledLinkingByte
  freeReply := freeReply
  freePtr := freePtr
  freeHold := freeHold
  freeWrite := freeWrite
  i2cByte := i2cByte

end Config

end Sys2Proof
end

