-- ==== Sys2Proof/Machine/State.lean ====
section
/-! DEFINITION. The state of the system: the initiator `E` and the target `T` of 10_state (R20 to R49), with the
model's own fields for what the spec calls inputs and outputs (R42; log entries 3 and 4). Plain data throughout. -/

namespace Sys2Proof.Machine

/-- `E.transport` (R21). -/
inductive Transport where
  | none
  | i2c
  | spi
  deriving DecidableEq, Repr

/-- The level last driven on a pin: `E.CS` (R31), `E.RST` (R32). -/
inductive Level where
  | undriven
  | high
  | low
  deriving DecidableEq, Repr

/-- `E.OP`, the kind of the request being served (R27). -/
inductive OpKind where
  | none
  | rd
  | wr
  | initSpi
  | initI2c
  deriving DecidableEq, Repr

/-- `E.STAGE`, which frame or part of the current request the engine is in (R28). -/
inductive Stage where
  | idle
  | pins
  | rstHigh
  | rstHold
  | rstLow
  | rstif
  | ptr
  | acc
  | i2c
  deriving DecidableEq, Repr

/-- `E.PHASE`, the phase of the current frame (R29). -/
inductive Phase where
  | idle
  | loaded
  | command
  | reply
  | release
  deriving DecidableEq, Repr

/-- The initiator: the Device Handle, the working registers, the sequencing state and the pin levels. -/
structure Engine where
  /-- `E.transport` (R21). -/
  transport : Transport
  /-- `E.i2cAddress` (R22). -/
  i2cAddress : I2cAddr
  /-- `E.chipSelectPin` (R23). -/
  chipSelectPin : PinId
  /-- `E.resetPin` (R24). -/
  resetPin : PinId
  /-- `E.CMD[0]` (R26). -/
  cmd0 : Byte
  /-- `E.CMD[1]` (R26). -/
  cmd1 : Byte
  /-- `E.LEN` (R26). -/
  len : Nat
  /-- `E.CAP` (R26). -/
  cap : Nat
  /-- `E.OP` (R27). -/
  op : OpKind
  /-- `E.ADDR` (R27). -/
  addr : Byte
  /-- `E.DATA` (R27). -/
  data : Byte
  /-- `E.RX` (R27). -/
  rx : Byte
  /-- `E.STAGE` (R28). -/
  stage : Stage
  /-- `E.PHASE` (R29). -/
  phase : Phase
  /-- `E.IDX` (R30). -/
  idx : Nat
  /-- `E.CS` (R31). -/
  cs : Level
  /-- `E.RST` (R32). -/
  rst : Level
  deriving DecidableEq, Repr

/-- `T.PS`, the parser's position inside a window (R39). -/
inductive ParserState where
  | idle
  | opcode
  | operand (op : OperandOp)
  | reply
  | done (op : Opcode)
  | bad
  deriving DecidableEq, Repr

/-- `T.RF` (R35, R60): a list of written registers over the contents an unlisted register has, which are those
after a hardware reset pulse if `pulsed`, else the unspecified ones before any (R47). Log entry 7. -/
structure RegFile where
  pulsed : Bool
  /-- Addresses strictly rising, below 256, no entry equal to the unlisted value: `RegFile.wf`. -/
  cells : List Host.Cell
  deriving DecidableEq, Repr

/-- The target: register file, pointer, flags and parser (R35 to R40), with the model's own bookkeeping. -/
structure Target where
  /-- `T.RF` (R35). -/
  rf : RegFile
  /-- `T.PTR` (R36). -/
  ptr : Byte
  /-- `T.PTR_VALID` (R37). -/
  ptrValid : Bool
  /-- `T.KNOWN` (R38). -/
  known : Bool
  /-- `T.PS` (R39). -/
  ps : ParserState
  /-- `T.HOLD` (R40). -/
  hold : Byte
  /-- The model's own: address and old content of the write made in the open window (R160). Log entry 11. -/
  wrote : Option (Byte × Byte)
  /-- The spec's sticky refusal mark (R10 `refuse`, R160). Log entry 21. -/
  mark : Bool
  /-- The model's own: the number of the next free value (log entry 8). -/
  draws : Nat
  deriving DecidableEq, Repr

/-- The error causes (R240). -/
inductive ErrorCause where
  | invalidArgument
  /-- With what the primitive reported, "propagated unchanged" (R242). -/
  | transportError (report : FaultReport)
  | notInitialised
  | alreadyInitialised
  deriving DecidableEq, Repr

/-- A response of the engine's response channel (R204), also the result of a client operation. -/
inductive Response where
  | ok
  | okByte (v : Byte)
  | err (cause : ErrorCause)
  deriving DecidableEq, Repr

/-- The alphabet of the wire trace (R11). -/
inductive Event where
  | pinMode (pin : PinId)
  | rstHigh
  | rstLow
  | delay (ms : Nat)
  | csLow
  | csHigh
  | tx (b : Byte)
  | rx (v : Byte)
  | xferFail
  | i2cRead (dev : I2cAddr) (reg v : Byte)
  | i2cWrite (dev : I2cAddr) (reg v : Byte)
  | i2cFail (dev : I2cAddr) (reg : Byte)
  deriving DecidableEq, Repr

/-- How far the client layer is with its current operation (R220, R221, R205): which request it is waiting for.
Log entry 18. -/
inductive ClientTask where
  | idle
  /-- One request, whose response is the operation's result. -/
  | single
  /-- Step 1 of `getSensorInputs`: the read of the sensor input status. -/
  | status
  /-- Step 2a: the read of main control; `s` is the status byte of step 1. -/
  | control (s : Byte)
  /-- Step 2c: the write of main control; `s` is the status byte of step 1. -/
  | clear (s : Byte)
  /-- Initialisation, or a default configuration write; the writes still to be made. -/
  | configure (rest : List (Byte × Byte))
  deriving DecidableEq, Repr

/-- What the world outside the engine will do, oldest first (R12, R42, R301). Log entry 3. -/
structure Inputs where
  /-- The client operations the caller asks for. -/
  ops : List ClientOp
  /-- For each coming byte slot, the failure the shift primitive reports, if any; none left means success (R131). -/
  slotFaults : List (Option FaultReport)
  /-- For each coming I2C call, the failure the primitive reports, if any; none left means success (R201). -/
  i2cFaults : List (Option FaultReport)
  /-- For each coming moment at which no window is open, the register changes the chip makes (R44). -/
  envChanges : List (List (Byte × Byte))
  deriving DecidableEq, Repr

end Sys2Proof.Machine

namespace Sys2Proof.Machine

/-- The whole state: `(E, T)` of R20, the requester, and the recorded outputs. -/
structure State where
  /-- The initiator `E`. -/
  eng : Engine
  /-- The target `T`. -/
  tgt : Target
  /-- The requester's progress with its operation (R12). -/
  client : ClientTask
  /-- The response channel: the response to the last accepted request, not yet taken (R204). -/
  response : Option Response
  /-- The outside world's inputs still to come. -/
  inputs : Inputs
  /-- The wire trace so far, oldest first (R11). -/
  trace : List Event
  /-- Every response of the engine so far, oldest first (R207). -/
  responses : List Response
  /-- Every result of a client operation so far, oldest first. -/
  results : List Response
  /-- The model's own: the number of the next I2C call (log entry 20). -/
  i2cCalls : Nat
  deriving DecidableEq, Repr

/-- Why the machine stops. -/
inductive Fault where
  /-- Raised by `eventCore` in a state for which the spec lists no step (R128: "Every pair not listed has no
  step"). Safe: no run from construction reaches one. Log entry 14. -/
  | noStepEnabled
  deriving DecidableEq, Repr

/-- Why something asked for has no meaning. -/
inductive Refusal where
  /-- An instruction without a meaning yet; raised by `exec` only. Safe. -/
  | notModelled (mnemonic : String)
  /-- Raised by the client layer for the write to all thresholds at once, to which the spec gives no meaning
  and forbids giving one (R230, U6). Safe. Log entry 19. -/
  | knownUnreliable
  /-- Raised by the requester in place of handing over an `initSPI` with one pin for chip-select and reset: a model
  has no move for it (R301). Safe. Log entry 28. -/
  | sharedPins
  deriving DecidableEq, Repr

/-- `E` at construction (R46). The values of `i2cAddress`, `chipSelectPin`, `resetPin`, `cmd0`, `cmd1`, `len`,
`cap`, `addr`, `data`, `rx` are DESIGN CHOICE (unsafe): the spec leaves them unspecified. Log entry 5. -/
def Engine.reset : Engine where
  transport := .none
  i2cAddress := 0
  chipSelectPin := 0
  resetPin := 0
  cmd0 := 0
  cmd1 := 0
  len := 1
  cap := 0
  op := .none
  addr := 0
  data := 0
  rx := 0
  stage := .idle
  phase := .idle
  idx := 0
  cs := .undriven
  rst := .undriven

/-- `T` before any hardware reset pulse (R47). The values of `ptr` and `hold` are DESIGN CHOICE (unsafe): the
spec leaves them unspecified (log entry 6); the register contents are the open `Params.rfUnpulsed`. -/
def Target.reset : Target where
  rf := ⟨false, []⟩
  ptr := 0
  ptrValid := false
  known := false
  ps := .idle
  hold := 0
  wrote := none
  mark := false
  draws := 0

/-- The system right after construction of the Device Handle (R46, R47, R281): nothing asked, nothing emitted. -/
def State.reset : State where
  eng := .reset
  tgt := .reset
  client := .idle
  response := none
  inputs := ⟨[], [], [], []⟩
  trace := []
  responses := []
  results := []
  i2cCalls := 0

end Sys2Proof.Machine
end

