-- ==== Sys2Proof/Machine/Ops.lean ====
section
/-! DEFINITION. The named operations over the register file and the registers: reading and writing one register
(20_memory R60 to R64, R78), emitting an event (R11), responding (R204), and raising an error (60_exceptions
R250), which is all this hardware has for taking an exception; nothing is returned from (R254). -/

namespace Sys2Proof.Machine

/-- The entry for an address, if the register was written with other than its unlisted value. -/
def cellsGet (a : Nat) : List Host.Cell → Option Byte
  | [] => none
  | c :: tail => if c.1 = a then some c.2 else cellsGet a tail

/-- Put an entry into a list with rising addresses, in place of the address's old one. -/
def cellsPut (a : Nat) (v : Byte) : List Host.Cell → List Host.Cell
  | [] => [(a, v)]
  | c :: tail =>
    if a < c.1 then (a, v) :: c :: tail
    else if c.1 = a then (a, v) :: tail
    else c :: cellsPut a v tail

/-- Take out an address's entry. -/
def cellsDrop (a : Nat) : List Host.Cell → List Host.Cell
  | [] => []
  | c :: tail => if c.1 = a then tail else c :: cellsDrop a tail

/-- The content of a register (R35). -/
def RegFile.read (P : Params) (rf : RegFile) (a : Byte) : Byte :=
  (cellsGet a.toNat rf.cells).getD (P.unlisted rf.pulsed a)

/-- Store into one register, keeping the canonical form: the unlisted value is never listed. -/
def RegFile.write (P : Params) (rf : RegFile) (a v : Byte) : RegFile :=
  if v = P.unlisted rf.pulsed a then { rf with cells := cellsDrop a.toNat rf.cells }
  else { rf with cells := cellsPut a.toNat v rf.cells }

/-- The canonical form of a register file: rising addresses of the one-byte address space, and no entry equal to
what an unlisted register reads as. -/
abbrev RegFile.wf (P : Params) (rf : RegFile) : Prop :=
  rf.cells.Pairwise (fun c d => c.1 < d.1) ∧
    ∀ c ∈ rf.cells, c.1 < 256 ∧ c.2 ≠ P.unlisted rf.pulsed (BitVec.ofNat 8 c.1)

/-- `MemRead(addr, 1)` (R63): the register, or any byte where none is implemented and readable. -/
def memRead (P : Params) (T : Target) (a : Byte) : Byte :=
  if P.implemented a && P.readable a then T.rf.read P a else P.freeReply T.draws

/-- `draw({old, v})` (R64, R160): either byte, by no rule. -/
def drawEither (P : Params) (T : Target) (old v : Byte) : Byte :=
  if P.freeWrite T.draws then v else old

/-- The byte a register holds after `MemWrite(addr, 1, v)` (R64): `v`, or one of the old byte and `v` where none
is implemented and writable. -/
def storedByte (P : Params) (T : Target) (a v : Byte) : Byte :=
  if P.implemented a && P.writable a then v else drawEither P T (T.rf.read P a) v

/-- `MemWrite(addr, 1, v)` (R64): no other location changes. -/
def memWrite (P : Params) (a v : Byte) (T : Target) : Target :=
  { T with rf := T.rf.write P a (storedByte P T a v) }

/-- Emit one wire event (R11). -/
def State.emit (e : Event) (s : State) : State := { s with trace := s.trace ++ [e] }

/-- The target's reaction to an event, in the same instant (R162). -/
def State.onTarget (f : Target → Target) (s : State) : State := { s with tgt := f s.tgt }

/-- A change of the initiator's registers. -/
def State.onEngine (f : Engine → Engine) (s : State) : State := { s with eng := f s.eng }

/-- Give the one response to the request in progress (R204). -/
def State.respond (r : Response) (s : State) : State :=
  { s with response := some r, responses := s.responses ++ [r] }

/-- End the request in progress: `E.OP <- OP_NONE`, `E.STAGE <- ST_IDLE`, and its response (R194, R195, R201). -/
def State.finish (r : Response) (s : State) : State :=
  (s.onEngine fun E => { E with op := .none, stage := .idle }).respond r

/-- `raise <Error>` (R250): the request ends, the engine returns to idle, the requester gets the error. Nothing
is saved and control goes nowhere. -/
def State.raise (c : ErrorCause) (s : State) : State :=
  (s.onEngine fun E => { E with op := .none, stage := .idle, phase := .idle }).respond (.err c)

/-- The numeric code of an error cause (R240). -/
def ErrorCause.code : ErrorCause → Nat
  | .invalidArgument => 1
  | .transportError _ => 2
  | .notInitialised => 3
  | .alreadyInitialised => 4

/-- The numeric code of a response (R240). -/
def Response.code : Response → Nat
  | .ok => 0
  | .okByte _ => 0
  | .err c => c.code

end Sys2Proof.Machine
end

