-- ==== Sys2Proof/Machine/Operands.lean ====
section
/-! DEFINITION. The operand forms: a command's bytes in the command buffer (R26, R93, R122), and the command the
buffer holds when a frame is loaded, which is what stands in for an instruction fetch (10_state section 4). -/

namespace Sys2Proof.Machine

/-- `E.CMD[i]` (R26). -/
def Engine.cmdAt (E : Engine) (i : Nat) : Byte := if i = 0 then E.cmd0 else E.cmd1

/-- The command bytes of the loaded frame, `E.CMD[0 .. E.LEN - 1]` (R124). -/
def Engine.cmdBytes (E : Engine) : List Byte :=
  if E.len = 1 then [E.cmd0] else if E.len = 2 then [E.cmd0, E.cmd1] else []

/-- The command of the loaded frame, if its bytes and its reply slots are those of one (R94, R95). -/
def Engine.loadedCommand (E : Engine) : Option Instr :=
  match decodeCommand E.cmdBytes with
  | .ok i => if E.cap = i.opcode.format.replyBytes then some i else none
  | .error _ => none

/-- The datum of the frame in progress, if it is a `WRPTR` (R160: "the initiator's `WRPTR d` window"). -/
def Engine.writeData (E : Engine) : Option Byte :=
  if E.cmd0 = opWrptr && E.len = 2 then some E.cmd1 else none

/-- The command that the engine is about to send: a frame is loaded and not yet begun (R122, R123). -/
def fetch (s : State) : Option Instr :=
  match s.eng.phase with
  | .loaded => s.eng.loadedCommand
  | .idle => none
  | .command => none
  | .reply => none
  | .release => none

end Sys2Proof.Machine
end

