-- ==== Sys2Proof/Machine/Flags.lean ====
section
/-! DEFINITION. The one-bit pieces of state and every rule that computes one: `T.PTR_VALID` (R37), `T.KNOWN`
(R38), the refusal mark (R160), the derived `E.BUSY` (R33); and the client's clearing of the interrupt flag
(R222). -/

namespace Sys2Proof.Machine

/-- `E.BUSY`, derived (R33). -/
def Engine.busy (E : Engine) : Bool := E.stage != .idle

/-- The engine is quiescent (R207). -/
def Engine.quiescent (E : Engine) : Bool := E.stage == .idle && E.phase == .idle

/-- The pointer is lost: not valid, and its value any (R37, U2). Log entry 9. -/
def losePtr (P : Params) (T : Target) : Target :=
  { T with ptrValid := false, ptr := P.freePtr T.draws }

/-- `T.PTR <- a`, `T.PTR_VALID <- true` (R152). -/
def setPtr (a : Byte) (T : Target) : Target := { T with ptr := a, ptrValid := true }

/-- The parser is in its known state, with no pointer (R48, R151). -/
def becomeKnown (P : Params) (T : Target) : Target := { losePtr P T with known := true }

/-- `refuse` (R160): the parser is no longer known, the pointer is lost, and the sticky mark is set. The register
file keeps its contents. Log entry 21. -/
def refuseWindow (P : Params) (T : Target) : Target := { losePtr P T with known := false, mark := true }

/-- Clear bit 0, the interrupt-pending flag, and leave bits 7 to 1 (R222). -/
def clearInterruptFlag (m : Byte) : Byte := m &&& 0xFE

end Sys2Proof.Machine
end

