-- ==== Sys2Proof/Machine/Target.lean ====
section
/-! DEFINITION. The target, event by event (41_wire_commands R156 to R161), its hardware reset (70 R287), and its
response to a whole window (R155). Every slot, `CsHigh` that ends a window, failed slot and reset uses one free
value number (log entry 8). -/

namespace Sys2Proof.Machine

/-- On `CsLow` (R156): a window opens. DESIGN CHOICE (safe), log entry 25: a window already open is dropped; the
spec's precondition is that none is. DESIGN CHOICE (unsafe outside the engine's invariant), log entry 30: the target
does not look at the reset pin, so a window while it is high is parsed and obeyed like any other; the document is
silent (R298, N23), U16 says `refuse`, and the engine never sends then. -/
def tgtCsLow (T : Target) : Target := { T with ps := .opcode, wrote := none }

/-- Dispatch on the op-code of slot 0 (R157). -/
def dispatchOpcode (T : Target) (b : Byte) : ParserState :=
  if b = opRstif then .operand .rstif
  else if !T.known then .bad
  else if b = opSetptr then .operand .setptr
  else if b = opWrptr && T.ptrValid then .operand .wrptr
  else if b = opRdptr && T.ptrValid then .reply
  else .bad

/-- The byte the target drives in a slot: the register in a reply slot (R158), unspecified elsewhere (D25). -/
def tgtDrives (P : Params) (T : Target) : Byte :=
  match T.ps with
  | .reply => memRead P T T.ptr
  | .idle => P.freeReply T.draws
  | .opcode => P.freeReply T.draws
  | .operand _ => P.freeReply T.draws
  | .done _ => P.freeReply T.draws
  | .bad => P.freeReply T.draws

/-- A surplus slot after a write (R159, R160): the written register holds its old byte or the operand, which is
still in `T.HOLD` (R40). Log entry 11. -/
def undoDraw (P : Params) (T : Target) : Target :=
  match T.wrote with
  | none => T
  | some (a, old) => { T with rf := T.rf.write P a (drawEither P T old T.hold) }

/-- The operand of `WRPTR` (R158): the write takes effect, and the pointer is used up (R37). -/
def applyWrite (P : Params) (b : Byte) (T : Target) : Target :=
  { losePtr P (memWrite P T.ptr b T) with wrote := some (T.ptr, T.rf.read P T.ptr) }

/-- What a slot with byte `b` on the initiator's line does, by the parser's position (R157 to R159). With no
window open the data lines are ignored (R161). The level of the reset pin does not matter here: log entry 30. -/
def slotEffect (P : Params) (b : Byte) (T : Target) : Target :=
  match T.ps with
  | .idle => T
  | .opcode => { T with ps := dispatchOpcode T b }
  | .operand .rstif => { T with hold := b, ps := if b = opRstif then .done .rstif else .bad }
  | .operand .setptr => { setPtr b T with hold := b, ps := .done .setptr }
  | .operand .wrptr => { applyWrite P b T with hold := b, ps := .done .wrptr }
  | .reply => { losePtr P T with ps := .done .rdptr }
  | .done _ => { undoDraw P T with ps := .bad }
  | .bad => T

/-- One more free value number is used. -/
def nextDraw (T : Target) : Target := { T with draws := T.draws + 1 }

/-- On a slot (R157 to R159). -/
def tgtSlot (P : Params) (b : Byte) (T : Target) : Target := nextDraw (slotEffect P b T)

/-- On `XferFail` (R160): the window will be refused; a `WRPTR d` that had a pointer may have written. The
argument is `d` if the initiator's window is a `WRPTR d`. Log entry 11. -/
def tgtXferFail (P : Params) (d : Option Byte) (T : Target) : Target :=
  match d with
  | none => nextDraw { T with ps := .bad }
  | some v =>
    if T.ptrValid then
      nextDraw { T with rf := T.rf.write P T.ptr (drawEither P T (T.rf.read P T.ptr) v), ps := .bad }
    else nextDraw { T with ps := .bad }

/-- The window is over. -/
def closeWindow (T : Target) : Target := { T with ps := .idle, wrote := none }

/-- On `CsHigh` (R159): the end of the window decides. One that arrives with no window open has no effect
(R161). The level of the reset pin does not matter here: log entry 30. -/
def tgtCsHigh (P : Params) (T : Target) : Target :=
  match T.ps with
  | .idle => T
  | .done .rstif => nextDraw (closeWindow (becomeKnown P T))
  | .done .setptr => nextDraw (closeWindow T)
  | .done .wrptr => nextDraw (closeWindow T)
  | .done .rdptr => nextDraw (closeWindow T)
  | .opcode => nextDraw (closeWindow (refuseWindow P T))
  | .operand _ => nextDraw (closeWindow (refuseWindow P T))
  | .reply => nextDraw (closeWindow (refuseWindow P T))
  | .bad => nextDraw (closeWindow (refuseWindow P T))

/-- The hardware reset (R287): every register at `RF_RESET`, no pointer, parser not known, no window; `T.HOLD`
unspecified (R47). -/
def tgtHardReset (P : Params) (T : Target) : Target :=
  nextDraw { losePtr P T with
    rf := ⟨true, []⟩, known := false, ps := .idle, hold := P.freeHold T.draws, wrote := none }

/-- The target through the slots of a window, with the bytes on the initiator's line. -/
def tgtSlots (P : Params) : List Byte → Target → Target
  | [], T => T
  | b :: bs, T => tgtSlots P bs (tgtSlot P b T)

/-- `TargetWindow(T, m)` (R155): the target's response to any whole window, well-formed or not. -/
def targetWindow (P : Params) (m : List Byte) (T : Target) : Target :=
  tgtCsHigh P (tgtSlots P m (tgtCsLow T))

end Sys2Proof.Machine
end

