-- ==== Sys2Proof/Machine/Frame.lean ====
section
/-! DEFINITION. The frame state machine of the initiator (40_framing R122 to R131), each step paired with the
target's step (R162), and one frame as a whole (R129). -/

namespace Sys2Proof.Machine

/-- Load (R122): no wire event. -/
def loadFrame (f : FrameReq) (s : State) : State :=
  s.onEngine fun E =>
    { E with cmd0 := f.c0, cmd1 := if f.len = 2 then f.c1 else E.cmd1, len := f.len, cap := f.cap, phase := .loaded }

/-- `CS <- LOW` (R10), seen by the target (R156). -/
def driveCsLow (s : State) : State :=
  ((s.onEngine fun E => { E with cs := .low }).emit .csLow).onTarget tgtCsLow

/-- `CS <- HIGH` (R10), seen by the target (R159, R161). -/
def driveCsHigh (P : Params) (s : State) : State :=
  ((s.onEngine fun E => { E with cs := .high }).emit .csHigh).onTarget (tgtCsHigh P)

/-- Assert (R123). -/
def assertStep (s : State) : State :=
  driveCsLow (s.onEngine fun E => { E with idx := 0, phase := .command })

/-- The failure the shift primitive reports in the coming slot, if any: an input, and only if `SHIFT_CAN_FAIL`
(R131). -/
def slotFailure (P : Params) (s : State) : Option FaultReport :=
  (s.inputs.slotFaults.headD none).filter fun _ => P.shiftCanFail

/-- The coming slot's input is used up. -/
def useSlot (s : State) : State := { s with inputs := { s.inputs with slotFaults := s.inputs.slotFaults.tail } }

/-- A slot that fails with the report `r` (R131): `XferFail`, the window is closed, and the request ends with
`TransportError`, which carries the report unchanged (R242, R251). -/
def failSlot (P : Params) (r : FaultReport) (s : State) : State :=
  (driveCsHigh P ((s.emit .xferFail).onTarget (tgtXferFail P s.eng.writeData))).raise (.transportError r)

/-- The initiator's side of a command slot (R124): which byte is next, and the next phase. -/
def afterCommandByte (E : Engine) : Engine :=
  { E with
    idx := E.idx + 1,
    phase := if E.idx + 1 = E.len then (if E.cap = 1 then .reply else .release) else .command }

/-- Command slot (R124). -/
def commandStep (P : Params) (s : State) : State :=
  match slotFailure P s with
  | some r => failSlot P r (useSlot s)
  | none =>
    (((useSlot s).emit (.tx (s.eng.cmdAt s.eng.idx))).onTarget (tgtSlot P (s.eng.cmdAt s.eng.idx))).onEngine
      afterCommandByte

/-- Reply slot (R125): the byte captured is the one the target drives (R162); the byte sent is the fill. -/
def replyStep (P : Params) (s : State) : State :=
  match slotFailure P s with
  | some r => failSlot P r (useSlot s)
  | none =>
    (((useSlot s).emit (.rx (tgtDrives P s.tgt))).onTarget (tgtSlot P P.rdFill)).onEngine fun E =>
      { E with rx := tgtDrives P s.tgt, phase := .release }

/-- Release (R126). -/
def releaseStep (P : Params) (s : State) : State :=
  driveCsHigh P (s.onEngine fun E => { E with phase := .idle })

/-- Whether the frame machine has a step (R128). -/
def frameEnabled (E : Engine) : Bool :=
  match E.phase with
  | .idle => false
  | .loaded => true
  | .command => decide (E.idx < E.len)
  | .reply => true
  | .release => true

/-- One step of the frame machine (R128); none when no frame is in progress. -/
def frameStep (P : Params) (s : State) : State :=
  match s.eng.phase with
  | .idle => s
  | .loaded => assertStep s
  | .command => commandStep P s
  | .reply => replyStep P s
  | .release => releaseStep P s

/-- `n` steps of the frame machine. -/
def frameSteps (P : Params) : Nat → State → State
  | 0, s => s
  | n + 1, s => frameSteps P n (frameStep P s)

/-- One whole frame (R129): load, then four wire events, or fewer if a slot fails (R133). -/
def sendFrame (P : Params) (f : FrameReq) (s : State) : State := frameSteps P 4 (loadFrame f s)

end Sys2Proof.Machine
end

