-- ==== Sys2Proof/Machine/WireCommands.lean ====
section
/-! DEFINITION. The meanings of the four wire commands (41_wire_commands R151 to R154): the frame the initiator
sends, with the target's response to it. A command always completes: with its effect, refused at the target
(R160), or cut off by a failing slot (R131). -/

namespace Sys2Proof.Machine

/-- `RSTIF` (R151): reset the target's command parser. -/
def execRstif (s : State) : Host.Outcome State Fault Refusal :=
  .next (sendFrame Config.params Instr.rstif.frameReq s)

/-- `SETPTR addr` (R152): point the register pointer at `addr`. -/
def execSetptr (addr : Byte) (s : State) : Host.Outcome State Fault Refusal :=
  .next (sendFrame Config.params (Instr.setptr addr).frameReq s)

/-- `WRPTR data` (R154): write the register the pointer names. -/
def execWrptr (data : Byte) (s : State) : Host.Outcome State Fault Refusal :=
  .next (sendFrame Config.params (Instr.wrptr data).frameReq s)

/-- `RDPTR` (R153): read the register the pointer names into `E.RX`. -/
def execRdptr (s : State) : Host.Outcome State Fault Refusal :=
  .next (sendFrame Config.params Instr.rdptr.frameReq s)

end Sys2Proof.Machine
end

