-- ==== Sys2Proof/Machine/Dispatch.lean ====
section
/-! DEFINITION. What each instruction does: one direct call of its meaning per wire command. -/

namespace Sys2Proof.Machine

def exec (i : Instr) (s : State) : Host.Outcome State Fault Refusal :=
  match i with
  | .rstif => Sys2Proof.Machine.execRstif s
  | .setptr addr => Sys2Proof.Machine.execSetptr addr s
  | .wrptr data => Sys2Proof.Machine.execWrptr data s
  | .rdptr => Sys2Proof.Machine.execRdptr s

end Sys2Proof.Machine
end

