-- ==== Sys2Proof/Machine/Requests.lean ====
section
/-! DEFINITION. The requests of the engine and the command-composition state machine (42 R190 to R203):
acceptance, the sequencer, the initialisations step by step (70 R282 to R289) and the I2C branch. -/

namespace Sys2Proof.Machine

/-- `PinOutput(pin)` (R10). -/
def pinOutput (pin : PinId) (s : State) : State := s.emit (.pinMode pin)

/-- Configuration and pin set-up of `initSPI` (R196, R283): stage `ST_PINS`. -/
def setupSpi (P : Params) (cs rst : PinId) (s : State) : State :=
  pinOutput rst (driveCsHigh P (pinOutput cs (s.onEngine fun E =>
    { E with op := .initSpi, stage := .pins, transport := .spi, chipSelectPin := cs, resetPin := rst })))

/-- Configuration and pin set-up of `initI2C` (R195, R283): stage `ST_PINS`; chip-select is not touched. -/
def setupI2c (adr : I2cAddr) (rst : PinId) (s : State) : State :=
  pinOutput rst (s.onEngine fun E =>
    { E with op := .initI2c, stage := .pins, transport := .i2c, i2cAddress := adr, resetPin := rst })

/-- The dispatch on the transport of an accepted register request (R190, R200): the I2C delegate, or the
set-pointer frame. -/
def dispatchTransport (s : State) : State :=
  match s.eng.transport with
  | .none => s.raise .notInitialised
  | .i2c => s.onEngine fun E => { E with stage := .i2c }
  | .spi => loadFrame (Instr.setptr s.eng.addr).frameReq (s.onEngine fun E => { E with stage := .ptr })

/-- The response channel is empty: the requester has taken the last response (R204). -/
def State.takeResponse (s : State) : State := { s with response := none }

/-- Acceptance of `initSPI` (R190, R196): only once (R244). -/
def acceptInitSpi (P : Params) (cs rst : PinId) (s : State) : State :=
  match s.eng.transport with
  | .none => setupSpi P cs rst s
  | .i2c => s.raise .alreadyInitialised
  | .spi => s.raise .alreadyInitialised

/-- Acceptance of `initI2C` (R190, R195): only once (R244). -/
def acceptInitI2c (adr : I2cAddr) (rst : PinId) (s : State) : State :=
  match s.eng.transport with
  | .none => setupI2c adr rst s
  | .i2c => s.raise .alreadyInitialised
  | .spi => s.raise .alreadyInitialised

/-- Acceptance of a register request (R190), which `latch` puts into `E.OP`, `E.ADDR`, `E.DATA` (R27): not before
an initialisation (R243). -/
def acceptRegister (latch : Engine → Engine) (s : State) : State :=
  match s.eng.transport with
  | .none => s.raise .notInitialised
  | .i2c => dispatchTransport (s.onEngine latch)
  | .spi => dispatchTransport (s.onEngine latch)

/-- Acceptance of a request by the idle engine (R190), with the pin set-up of an initialisation (log entry 13). -/
def accept (P : Params) (q : Request) (s : State) : State :=
  match q with
  | .initSpi cs rst => acceptInitSpi P cs rst s.takeResponse
  | .initI2c adr rst => acceptInitI2c adr rst s.takeResponse
  | .readRegister a => acceptRegister (fun E => { E with op := .rd, addr := a }) s.takeResponse
  | .writeRegister a d => acceptRegister (fun E => { E with op := .wr, addr := a, data := d }) s.takeResponse

/-- The sequencer's move when a frame has completed (R194): the access frame, or the response. -/
def sequencerMove (s : State) : State :=
  match s.eng.phase, s.eng.stage, s.eng.op with
  | .idle, .ptr, .rd => loadFrame Instr.rdptr.frameReq (s.onEngine fun E => { E with stage := .acc })
  | .idle, .ptr, .wr => loadFrame (Instr.wrptr s.eng.data).frameReq (s.onEngine fun E => { E with stage := .acc })
  | .idle, .acc, .rd => s.finish (.okByte s.eng.rx)
  | .idle, .acc, .wr => s.finish .ok
  | .idle, .rstif, .initSpi => s.finish .ok
  | _, _, _ => s

/-- `RST <- HIGH` (R284) and the target's hardware reset (R287). -/
def resetHigh (P : Params) (s : State) : State :=
  ((s.onEngine fun E => { E with rst := .high, stage := .rstHigh }).emit .rstHigh).onTarget (tgtHardReset P)

/-- The hold of the reset pulse, at least 10 ms (R285). -/
def resetHold (P : Params) (s : State) : State :=
  (s.onEngine fun E => { E with stage := .rstHold }).emit (.delay P.resetPulseMs)

/-- `RST <- LOW` (R286). -/
def resetLow (s : State) : State :=
  (s.onEngine fun E => { E with rst := .low, stage := .rstLow }).emit .rstLow

/-- The optional wait after the pulse (R288). -/
def postReset (P : Params) (s : State) : State :=
  if P.postResetMs = 0 then s else s.emit (.delay P.postResetMs)

/-- After the pulse under SPI (R196, R289): the interface-reset frame is loaded. -/
def afterResetSpi (P : Params) (s : State) : State :=
  loadFrame Instr.rstif.frameReq ((postReset P s).onEngine fun E => { E with stage := .rstif })

/-- After the pulse under I2C (R195): the initialisation is complete. -/
def afterResetI2c (P : Params) (s : State) : State := (postReset P s).finish .ok

/-- The failure the I2C primitive reports in the coming call, if any: an input (R201). -/
def i2cFailure (s : State) : Option FaultReport := s.inputs.i2cFaults.headD none

/-- The coming I2C call's input and number are used up. -/
def useI2c (s : State) : State :=
  { s with inputs := { s.inputs with i2cFaults := s.inputs.i2cFaults.tail }, i2cCalls := s.i2cCalls + 1 }

/-- A failing I2C call, whose report is surfaced unchanged (R201, R242). -/
def i2cFailed (r : FaultReport) (s : State) : State :=
  ((useI2c s).emit (.i2cFail s.eng.i2cAddress s.eng.addr)).raise (.transportError r)

/-- The delegated I2C read (R201): the byte it delivers is free (D26). -/
def i2cReadStep (P : Params) (s : State) : State :=
  match i2cFailure s with
  | some r => i2cFailed r s
  | none =>
    ((useI2c s).emit (.i2cRead s.eng.i2cAddress s.eng.addr (P.i2cByte s.i2cCalls))).finish
      (.okByte (P.i2cByte s.i2cCalls))

/-- The delegated I2C write (R201). -/
def i2cWriteStep (s : State) : State :=
  match i2cFailure s with
  | some r => i2cFailed r s
  | none => ((useI2c s).emit (.i2cWrite s.eng.i2cAddress s.eng.addr s.eng.data)).finish .ok

end Sys2Proof.Machine
end

