-- ==== Sys2Proof/Machine/Client.lean ====
section
/-! DEFINITION. The requester: the client layer's operations as sequences of selector requests (43 R220 to R230),
with their argument checks, and the hand-over of one request after the other (R204, R251). Log entry 18. -/

namespace Sys2Proof.Machine

/-- What the client layer does next. -/
inductive ClientMove where
  /-- Hand a request to the engine, and wait for its response as the given task. -/
  | ask (q : Request) (t : ClientTask)
  /-- The operation is over, with this result. -/
  | done (r : Response)
  /-- The operation has no meaning in the spec (R230). -/
  | unreliable
  deriving DecidableEq, Repr

/-- The first move of an operation: the argument check (R227 to R229), then its first request. -/
def clientStart (P : Params) : ClientOp → ClientMove
  | .request q => .ask q .single
  | .initSpi cs rst => .ask (.initSpi cs rst) (.configure P.defaultCfg)
  | .initI2c adr rst => .ask (.initI2c adr rst) (.configure P.defaultCfg)
  | .getProductId => .ask (.readRegister P.aProductId) .single
  | .getManufacturerId => .ask (.readRegister P.aManufacturerId) .single
  | .getRevision => .ask (.readRegister P.aRevision) .single
  | .getSensorInputs => .ask (.readRegister P.aSensorInputStatus) .status
  | .setMultipleTouchConfiguration false _ => .ask (.writeRegister P.aMultiTouchConfig 0x00) .single
  | .setMultipleTouchConfiguration true n =>
    if touchCountOk n then .ask (.writeRegister P.aMultiTouchConfig (P.mtCode n)) .single
    else .done (.err .invalidArgument)
  | .setSensorInputLedLinking mask => .ask (.writeRegister P.aLedLinking (P.ledLinkingByte mask)) .single
  | .setSensorInputThreshold c v =>
    if channelOk c then .ask (.writeRegister (P.aThreshold c) v) .single else .done (.err .invalidArgument)
  | .getSensorInputThreshold c =>
    if channelOk c then .ask (.readRegister (P.aThreshold c)) .single else .done (.err .invalidArgument)
  | .writeAllThresholds => .unreliable

/-- The next default configuration write, or the end of the initialisation (R205). -/
def configureMove : List (Byte × Byte) → ClientMove
  | [] => .done .ok
  | c :: rest => .ask (.writeRegister c.1 c.2) (.configure rest)

/-- The move on a response (R221, R205): an error ends the operation and is its result (R251, D30). -/
def clientContinue (P : Params) : ClientTask → Response → ClientMove
  | .idle, r => .done r
  | .single, r => .done r
  | .status, .okByte s => if s = 0x00 then .done (.okByte s) else .ask (.readRegister P.aMainControl) (.control s)
  | .status, .ok => .done .ok
  | .status, .err c => .done (.err c)
  | .control s, .okByte m => .ask (.writeRegister P.aMainControl (clearInterruptFlag m)) (.clear s)
  | .control _, .ok => .done .ok
  | .control _, .err c => .done (.err c)
  | .clear s, .ok => .done (.okByte s)
  | .clear s, .okByte _ => .done (.okByte s)
  | .clear _, .err c => .done (.err c)
  | .configure rest, .ok => configureMove rest
  | .configure rest, .okByte _ => configureMove rest
  | .configure _, .err c => .done (.err c)

/-- The client layer makes its move, the engine being quiescent: the request is accepted in the same step
(R190), unless it is one for which a model has no move (R301). -/
def clientMove (P : Params) (m : ClientMove) (s : State) : Host.Outcome State Fault Refusal :=
  match m with
  | .ask q t => if q.pinsOk then .next (accept P q { s with client := t }) else .refused .sharedPins
  | .done r => .next { s with client := .idle, response := none, results := s.results ++ [r] }
  | .unreliable => .refused .knownUnreliable

/-- The requester's step while the engine is quiescent (R207): begin the next operation, or go on with the
current one on its response; with nothing asked, the engine waits (R46). -/
def requesterStep (P : Params) (s : State) : Host.Outcome State Fault Refusal :=
  match s.client, s.inputs.ops, s.response with
  | .idle, [], _ => .next s
  | .idle, op :: rest, _ => clientMove P (clientStart P op) { s with inputs := { s.inputs with ops := rest } }
  | t, _, some r => clientMove P (clientContinue P t r) s
  | _, _, none => .fault .noStepEnabled

end Sys2Proof.Machine
end

