-- ==== Sys2Proof/Machine/Events.lean ====
section
/-! DEFINITION. The system's step below the instruction level: the chip environment (10_state R44), the
initiator's step by stage and phase (R128, R194 to R196), and what every step ends with. -/

namespace Sys2Proof.Machine

/-- The register changes of one moment, those outside `ENV_WRITES` dropped (R44). -/
def applyChanges (P : Params) : List (Byte × Byte) → RegFile → RegFile
  | [], rf => rf
  | c :: rest, rf => applyChanges P rest (if P.envWrites c.1 then rf.write P c.1 c.2 else rf)

/-- The chip environment's turn (R44): only while no window is open, and not while the chip is held in reset
(R287). Log entry 12. -/
def envTurn (P : Params) (s : State) : State :=
  if s.eng.cs = .low ∨ s.eng.rst = .high then s
  else
    { s with
      tgt := { s.tgt with rf := applyChanges P (s.inputs.envChanges.headD []) s.tgt.rf },
      inputs := { s.inputs with envChanges := s.inputs.envChanges.tail } }

/-- What every step ends with: the sequencer's move if a frame has just completed (R194), and the environment's
turn. -/
def settle (P : Params) (s : State) : State := envTurn P (sequencerMove s)

/-- `settle` on the next state of an outcome. -/
def settleOutcome (P : Params) (o : Host.Outcome State Fault Refusal) : Host.Outcome State Fault Refusal :=
  match o with
  | .next s => .next (settle P s)
  | .fault r => .fault r
  | .refused r => .refused r

/-- The step of the stages that send no frame (R195, R196, R201, R282), the frame machine being idle. -/
def stageStep (P : Params) (s : State) : Host.Outcome State Fault Refusal :=
  match s.eng.stage, s.eng.op with
  | .idle, _ => requesterStep P s
  | .pins, _ => .next (resetHigh P s)
  | .rstHigh, _ => .next (resetHold P s)
  | .rstHold, _ => .next (resetLow s)
  | .rstLow, .initSpi => .next (afterResetSpi P s)
  | .rstLow, .initI2c => .next (afterResetI2c P s)
  | .rstLow, _ => .fault .noStepEnabled
  | .i2c, .rd => .next (i2cReadStep P s)
  | .i2c, .wr => .next (i2cWriteStep s)
  | .i2c, _ => .fault .noStepEnabled
  | .rstif, _ => .fault .noStepEnabled
  | .ptr, _ => .fault .noStepEnabled
  | .acc, _ => .fault .noStepEnabled

/-- One step at the level of wire events: the frame machine if a frame is in progress, else the stage. -/
def eventCore (P : Params) (s : State) : Host.Outcome State Fault Refusal :=
  match s.eng.phase with
  | .idle => stageStep P s
  | .loaded => .next (frameStep P s)
  | .command => if frameEnabled s.eng then .next (frameStep P s) else .fault .noStepEnabled
  | .reply => .next (frameStep P s)
  | .release => .next (frameStep P s)

/-- The machine that steps one wire event at a time (40_framing section 2). -/
def eventStep (P : Params) (s : State) : Host.Outcome State Fault Refusal := settleOutcome P (eventCore P s)

/-- `n` steps of the machine that steps one wire event at a time. -/
def eventRun (P : Params) : Nat → State → Host.Outcome State Fault Refusal
  | 0, s => .next s
  | n + 1, s =>
    match eventStep P s with
    | .next t => eventRun P n t
    | .fault r => .fault r
    | .refused r => .refused r

/-- The machine of `step` with any parameters: a loaded command is run as one whole window (R129), everything
else one event at a time. Log entry 1. -/
def stepWith (P : Params) (s : State) : Host.Outcome State Fault Refusal :=
  match fetch s with
  | some i => .next (settle P (sendFrame P i.frameReq s))
  | none => eventStep P s

/-- `n` steps of `stepWith`. -/
def runWith (P : Params) : Nat → State → Host.Outcome State Fault Refusal
  | 0, s => .next s
  | n + 1, s =>
    match stepWith P s with
    | .next t => runWith P n t
    | .fault r => .fault r
    | .refused r => .refused r

end Sys2Proof.Machine
end

