-- ==== Sys2Proof/Machine/Step.lean ====
section
/-! DEFINITION. The machine's step, and how a command is placed where the next step finds it. -/

namespace Sys2Proof.Machine

/-- One step: if a frame is loaded, its command is executed, its whole window with it; anything else is one step
of the stages or of a frame already begun. Then the sequencer moves and the environment has its turn. Log
entry 1. -/
def step (s : State) : Host.Outcome State Fault Refusal :=
  match fetch s with
  | some i => settleOutcome Config.params (exec i s)
  | none => eventStep Config.params s

/-- The stage and request kind in which the engine sends a command with this op-code (R194, R196). -/
def stageFor (b : Byte) : Stage × OpKind :=
  if b = opRstif then (.rstif, .initSpi)
  else if b = opSetptr then (.ptr, .rd)
  else if b = opWrptr then (.acc, .wr)
  else (.acc, .rd)

/-- `s` with a frame word of `nbits` bits, numbered as the opcode table numbers it (R9), loaded for sending in an
SPI-bound engine (R122, R150). Log entry 2. -/
def State.withFetchWord (s : State) (nbits w : Nat) : State :=
  let bytes := wordBytes ((nbits + 7) / 8) w
  let b := bytes.headD 0
  { s with eng := { s.eng with
      transport := .spi,
      cs := .high,
      cmd0 := b,
      cmd1 := bytes.tail.headD 0,
      len := bytes.length,
      cap := 2 - bytes.length,
      stage := (stageFor b).1,
      op := (stageFor b).2,
      phase := .loaded } }

end Sys2Proof.Machine
end

