-- ==== Sys2Proof/Safety.lean ====
section
/-! DEFINITION. What the statements say of a state: that coming transfers succeed, that a window is open, the
engine's invariants (10_state R21 to R32, 40_framing R127), and the grammar of a run with no failure (42 R198). -/

namespace Sys2Proof.Machine

/-- The next `n` byte slots do not fail (R131). -/
def State.SlotsOk (n : Nat) (s : State) : Prop := ∀ b ∈ s.inputs.slotFaults.take n, b = none

/-- No byte slot still to come fails (R131). -/
def State.NoSlotFault (s : State) : Prop := ∀ b ∈ s.inputs.slotFaults, b = none

/-- The chip changes no register from now on (R44). -/
def State.NoEnvChange (s : State) : Prop := ∀ c ∈ s.inputs.envChanges, c = []

/-- A window is open as the frame machine sees it: chip-select is low in exactly these phases (R127). -/
def Phase.windowOpen (p : Phase) : Bool :=
  match p with
  | .idle => false
  | .loaded => false
  | .command => true
  | .reply => true
  | .release => true

/-- Which request, transport and frame a stage belongs to (R28, R190, R194 to R196, R201). -/
def Engine.StageOk (E : Engine) : Prop :=
  match E.stage with
  | .idle => E.op = .none ∧ E.phase = .idle
  | .pins => (E.op = .initSpi ∧ E.transport = .spi ∨ E.op = .initI2c ∧ E.transport = .i2c) ∧ E.phase = .idle
  | .rstHigh => (E.op = .initSpi ∧ E.transport = .spi ∨ E.op = .initI2c ∧ E.transport = .i2c) ∧ E.phase = .idle
  | .rstHold => (E.op = .initSpi ∧ E.transport = .spi ∨ E.op = .initI2c ∧ E.transport = .i2c) ∧ E.phase = .idle
  | .rstLow => (E.op = .initSpi ∧ E.transport = .spi ∨ E.op = .initI2c ∧ E.transport = .i2c) ∧ E.phase = .idle
  | .rstif => E.op = .initSpi ∧ E.transport = .spi ∧ E.phase ≠ .idle
  | .ptr => (E.op = .rd ∨ E.op = .wr) ∧ E.transport = .spi ∧ E.phase ≠ .idle
  | .acc => (E.op = .rd ∨ E.op = .wr) ∧ E.transport = .spi ∧ E.phase ≠ .idle
  | .i2c => (E.op = .rd ∨ E.op = .wr) ∧ E.transport = .i2c ∧ E.phase = .idle

/-- The frame a stage sends, if it sends one (R122, R190, R194, R196). -/
def Engine.stageFrame (E : Engine) : Option FrameReq :=
  match E.stage, E.op with
  | .rstif, _ => some Instr.rstif.frameReq
  | .ptr, _ => some (Instr.setptr E.addr).frameReq
  | .acc, .rd => some Instr.rdptr.frameReq
  | .acc, .wr => some (Instr.wrptr E.data).frameReq
  | _, _ => none

/-- The command buffer holds a frame; its second byte only if it is sent (R26, R122). -/
def Engine.Holds (E : Engine) (f : FrameReq) : Prop :=
  E.cmd0 = f.c0 ∧ E.len = f.len ∧ E.cap = f.cap ∧ (f.len = 2 → E.cmd1 = f.c1)

/-- The command buffer holds the frame of the current stage (R122). -/
def Engine.BufferOk (E : Engine) : Prop := ∀ f, E.stageFrame = some f → E.Holds f

/-- The byte index in each phase of a frame (R30, R124, R125). -/
def Engine.IndexOk (E : Engine) : Prop :=
  E.idx ≤ 2 ∧ (E.phase = .command → E.idx < E.len) ∧ (E.phase = .reply → E.cap = 1)

/-- The chip-select level (R31, R127): untouched but under SPI; there low exactly while a window is open. -/
def Engine.CsOk (E : Engine) : Prop :=
  (E.transport ≠ .spi → E.cs = .undriven) ∧
    (E.transport = .spi → E.cs = if E.phase.windowOpen then .low else .high)

/-- The reset-pin level (R32, R284, R286): low for ever after the pulse. -/
def Engine.RstOk (E : Engine) : Prop :=
  (E.transport = .none → E.rst = .undriven ∧ E.stage = .idle) ∧
    (E.transport ≠ .none →
      E.rst =
        match E.stage with
        | .pins => .undriven
        | .rstHigh => .high
        | .rstHold => .high
        | .idle => .low
        | .rstLow => .low
        | .rstif => .low
        | .ptr => .low
        | .acc => .low
        | .i2c => .low)

/-- The invariant of the initiator. -/
def Engine.Inv (E : Engine) : Prop := E.StageOk ∧ E.BufferOk ∧ E.IndexOk ∧ E.CsOk ∧ E.RstOk

/-- The requester waits for a response exactly while its request is served (R204): with the engine idle in the
middle of an operation, the response is there. -/
def State.ClientOk (s : State) : Prop := s.client ≠ .idle → s.eng.stage = .idle → s.response ≠ none

/-- No window is in progress: what every state between two steps of `step` is. -/
def State.BetweenWindows (s : State) : Prop :=
  (s.eng.phase = .idle ∨ s.eng.phase = .loaded) ∧ s.tgt.ps = .idle

/-- The invariant of the machine. -/
def State.Inv (P : Params) (s : State) : Prop :=
  s.eng.Inv ∧ s.ClientOk ∧ s.BetweenWindows ∧ s.tgt.rf.wf P ∧ (s.tgt.ptrValid = true → s.tgt.known = true)

/-- No window was ever refused, and the target is ready for the window that comes next (R198): known once the
interface was reset, with a pointer exactly before an access. -/
def State.Clean (s : State) : Prop :=
  s.tgt.mark = false ∧
    (s.eng.transport = .spi → s.eng.stage = .idle → s.tgt.known = true) ∧
    (s.eng.stage = .ptr → s.tgt.known = true) ∧
    (s.eng.stage = .acc → s.tgt.known = true) ∧
    (s.tgt.ptrValid = true ↔ s.eng.stage = .acc)

/-- Ready for register requests under SPI, with nothing in progress ("SPI-ready", R49): the parser known, no
window open. -/
def State.SpiReady (s : State) : Prop :=
  s.eng.transport = .spi ∧ s.eng.stage = .idle ∧ s.eng.phase = .idle ∧ s.eng.cs = .high ∧ s.eng.rst = .low ∧
    s.tgt.known = true ∧ s.tgt.ps = .idle

/-- A window refused at the target (R160): not known, no pointer, the mark set, no window open. -/
def Target.Refused (T : Target) : Prop :=
  T.known = false ∧ T.ptrValid = false ∧ T.mark = true ∧ T.ps = .idle

/-- The events of the SPI lines (R77). -/
def Event.isSpi (e : Event) : Bool :=
  match e with
  | .csLow => true
  | .csHigh => true
  | .tx _ => true
  | .rx _ => true
  | .xferFail => true
  | .pinMode _ => false
  | .rstHigh => false
  | .rstLow => false
  | .delay _ => false
  | .i2cRead _ _ _ => false
  | .i2cWrite _ _ _ => false
  | .i2cFail _ _ => false

/-- The events of the I2C delegate (R77). -/
def Event.isI2c (e : Event) : Bool :=
  match e with
  | .i2cRead _ _ _ => true
  | .i2cWrite _ _ _ => true
  | .i2cFail _ _ => true
  | .csLow => false
  | .csHigh => false
  | .tx _ => false
  | .rx _ => false
  | .xferFail => false
  | .pinMode _ => false
  | .rstHigh => false
  | .rstLow => false
  | .delay _ => false

/-- The wire image of a command in a window whose transfers succeed (R101). -/
def windowTrace (i : Instr) (reply : Byte) : List Event :=
  match i with
  | .rstif => [.csLow, .tx 0x7A, .tx 0x7A, .csHigh]
  | .setptr a => [.csLow, .tx 0x7D, .tx a, .csHigh]
  | .wrptr d => [.csLow, .tx 0x7E, .tx d, .csHigh]
  | .rdptr => [.csLow, .tx 0x7F, .rx reply, .csHigh]

/-- The wire image of the pin set-up of `initSPI` (R196, R283). -/
def spiPinTrace (cs rst : PinId) : List Event := [.pinMode cs, .csHigh, .pinMode rst]

/-- The wire image of the hardware reset pulse, held for `d` milliseconds (R284 to R286). -/
def pulseTrace (d : Nat) : List Event := [.rstHigh, .delay d, .rstLow]

/-- The wire image of the optional wait after the pulse (R288). -/
def postResetTrace (P : Params) : List Event := if P.postResetMs = 0 then [] else [.delay P.postResetMs]

/-- After `n` steps from `s` the caller has `ERR(TransportError)` with the report `r` as the one new result, the
operation is over and those of `rest` are left, and the trace has grown by `es` (R242, R251). -/
def State.EndsWithReport (P : Params) (s : State) (n : Nat) (r : FaultReport) (rest : List ClientOp)
    (es : List Event) : Prop :=
  ∃ t, runWith P n s = .next t ∧ t.results = s.results ++ [.err (.transportError r)] ∧ t.client = .idle ∧
    t.eng.stage = .idle ∧ t.inputs.ops = rest ∧ t.trace = s.trace ++ es

end Sys2Proof.Machine
end

