-- ==== Sys2Proof/Certificates/Slice0/Obligations.lean ====
section
/-! DEFINITION. The statements for the provers. Each docstring names the rule it formalises. Where a statement
quantifies over `P`, it holds for every value of the open parameters; `exec` and `step` are the machine with the
opaque `Config.params`. -/

section

open Sys2Proof Sys2Proof.Machine

/-! ### Encoding -/

/-- 30_encoding R94 to R96: decoding an encoded well-formed command gives it back, at every operand, whatever bytes
follow; and a list of bytes is the one command of a window exactly if it is that command's encoding. -/
def Obligations.DecodeAndEncodeAgree : Prop :=
  (∀ (i : Instr) (tail : List Byte), i.wellFormed = true → decode (encode i ++ tail) = .ok (i, tail)) ∧
    ∀ (bytes : List Byte) (i : Instr), decodeCommand bytes = .ok i ↔ bytes = encode i

/-- 30_encoding R94 and the vectors of 95 section 2.1: words written out from the table. -/
def Obligations.FrameWordsDecodeAsPrinted : Prop :=
  decodeTableWord 16 0b0111101001111010 = some .rstif ∧
    decodeTableWord 16 0b0111110100110000 = some (.setptr 0x30) ∧
    decodeTableWord 16 0b0111111001111111 = some (.wrptr 0x7F) ∧
    decodeTableWord 8 0b01111111 = some .rdptr ∧
    decodeTableWord 16 0x7A00 = none ∧ decodeTableWord 16 0x7B30 = none ∧ decodeTableWord 16 0xFD30 = none

/-- 30_encoding R93, R94: every operand byte of a frame word is the operand of its command. -/
def Obligations.FrameWordOperandIsTheLowByte : Prop :=
  ∀ b : Byte, decodeTableWord 16 (0x7D00 + b.toNat) = some (.setptr b) ∧
    decodeTableWord 16 (0x7E00 + b.toNat) = some (.wrptr b) ∧
    decodeTableWord 16 (0x7A00 + b.toNat) = (if b = 0x7A then some .rstif else none)

/-- 30_encoding R94: the rows of the opcode table that cover a frame word are exactly the row of the command that
the decoder reads from it, so no word has two rows and none is decoded without one. -/
def Obligations.DecoderFollowsTheOpcodeTable : Prop :=
  ∀ w : Nat,
    (w < 65536 → (opTable.filter fun r => r.covers 16 w).map (fun r => r.mnemonic) =
      (decodeTableWord 16 w).toList.map Instr.mnemonic) ∧
    (w < 256 → (opTable.filter fun r => r.covers 8 w).map (fun r => r.mnemonic) =
      (decodeTableWord 8 w).toList.map Instr.mnemonic)

/-- 30_encoding R94, R97: the malformed command bytes are rejected, each by its own name. -/
def Obligations.MalformedCommandsAreRejectedByName : Prop :=
  decodeCommand [] = .error .empty ∧
    (∀ (b : Byte) (rest : List Byte), b ≠ 0x7A → b ≠ 0x7D → b ≠ 0x7E → b ≠ 0x7F →
      decodeCommand (b :: rest) = .error (.reservedOpcode b)) ∧
    (∀ (b : Byte) (rest : List Byte), b ≠ 0x7A → decodeCommand (0x7A :: b :: rest) = .error (.reservedSecondByte b)) ∧
    decodeCommand [0x7A] = .error (.short .rstif) ∧ decodeCommand [0x7D] = .error (.short .setptr) ∧
    decodeCommand [0x7E] = .error (.short .wrptr) ∧
    ∀ (i : Instr) (b : Byte) (rest : List Byte), decodeCommand (encode i ++ b :: rest) = .error .long

/-! ### The step -/

/-- 40_framing R122, R129, 42 R194: with a loaded command in the buffer, a step executes that command; then the
sequencer moves and the chip environment has its turn. That one step runs the whole window (log entry 1) and that
the chip's turn (R44) is at the end of the step (log entry 12) is the model's choice. -/
def Obligations.StepRunsTheLoadedCommand : Prop :=
  ∀ (s : State) (i : Instr), s.eng.phase = .loaded → decodeCommand s.eng.cmdBytes = .ok i → i.wellFormed = true →
    s.eng.cap = i.opcode.format.replyBytes →
    step s =
      match exec i s with
      | .next t => .next (envTurn Config.params (sequencerMove t))
      | .fault r => .fault r
      | .refused r => .refused r

/-- The machine's step is `stepWith` at the machine's parameters, so that a statement about every `P` is one
about the machine (92_eei_decisions: the parameter is an argument, and the theorems quantify over it). -/
def Obligations.StepIsStepWithAtTheMachinesParameters : Prop :=
  ∀ s : State, step s = stepWith Config.params s

/-- 40_framing R129, which the spec derives from R122 to R126: running a loaded command as one window gives the state that running it event by event gives:
after four events if its slots succeed, and after at most four in any case. -/
def Obligations.WindowStepIsItsEventSteps : Prop :=
  ∀ (P : Params) (s : State) (i : Instr), fetch s = some i →
    (s.SlotsOk 2 → eventRun P 4 s = stepWith P s) ∧ ∃ n, n ≤ 4 ∧ eventRun P n s = stepWith P s

/-- 40_framing R133: a loaded frame of two slots is over after four steps, and not before if no slot fails. -/
def Obligations.LoadedFrameEndsAfterFourSteps : Prop :=
  ∀ (P : Params) (s : State), s.eng.phase = .loaded → (s.eng.len = 1 ∧ s.eng.cap = 1 ∨ s.eng.len = 2 ∧ s.eng.cap = 0) →
    (frameSteps P 4 s).eng.phase = .idle ∧
      (s.SlotsOk 2 → ∀ k, k < 4 → (frameSteps P k s).eng.phase ≠ .idle)

/-! ### The four commands -/

/-- 41 R151: `RSTIF` completes in every state whose next two slots succeed. That it does so while the reset pin is high
too, outside the engine's invariant, is the model's choice (log entry 30). -/
def Obligations.RstifMakesTheParserKnown : Prop :=
  ∀ s : State, s.SlotsOk 2 → ∃ t, exec .rstif s = .next t ∧
    t.tgt.known = true ∧ t.tgt.ptrValid = false ∧ t.tgt.ps = .idle ∧ t.tgt.rf = s.tgt.rf ∧ t.tgt.mark = s.tgt.mark ∧
    t.trace = s.trace ++ windowTrace .rstif 0

/-- 41 R152: `SETPTR addr` completes when the parser is known and its slots succeed. That it does so while the reset pin
is high too, outside the engine's invariant, is the model's choice (log entry 30). -/
def Obligations.SetptrPointsAtItsAddress : Prop :=
  ∀ (addr : Byte) (s : State), s.SlotsOk 2 → s.tgt.known = true → ∃ t, exec (.setptr addr) s = .next t ∧
    t.tgt.ptr = addr ∧ t.tgt.ptrValid = true ∧ t.tgt.known = true ∧ t.tgt.ps = .idle ∧ t.tgt.rf = s.tgt.rf ∧
    t.tgt.mark = s.tgt.mark ∧ t.trace = s.trace ++ windowTrace (.setptr addr) 0

/-- 41 R153, 20 R63: `RDPTR` completes when the parser is known and holds a pointer; the captured byte is the
pointed register's, where one is implemented and readable (elsewhere it is any byte). That it completes while the reset
pin is high too, outside the engine's invariant, is the model's choice (log entry 30). -/
def Obligations.RdptrCapturesThePointedRegister : Prop :=
  ∀ s : State, s.SlotsOk 2 → s.tgt.known = true → s.tgt.ptrValid = true → ∃ t v, exec .rdptr s = .next t ∧
    t.eng.rx = v ∧
    (Config.params.implemented s.tgt.ptr = true → Config.params.readable s.tgt.ptr = true →
      v = s.tgt.rf.read Config.params s.tgt.ptr) ∧
    t.tgt.ptrValid = false ∧ t.tgt.known = true ∧ t.tgt.ps = .idle ∧ t.tgt.rf = s.tgt.rf ∧ t.tgt.mark = s.tgt.mark ∧
    t.trace = s.trace ++ windowTrace .rdptr v

/-- 41 R154, 20 R64: `WRPTR data` completes when the parser is known and holds a pointer; the pointed register then
holds the datum, where one is implemented and writable, and elsewhere the datum or its old byte. That it completes
while the reset pin is high too, outside the engine's invariant, is the model's choice (log entry 30). -/
def Obligations.WrptrWritesThePointedRegister : Prop :=
  ∀ (data : Byte) (s : State), s.SlotsOk 2 → s.tgt.known = true → s.tgt.ptrValid = true → s.tgt.rf.wf Config.params →
    ∃ t, exec (.wrptr data) s = .next t ∧
    (Config.params.implemented s.tgt.ptr = true → Config.params.writable s.tgt.ptr = true →
      t.tgt.rf.read Config.params s.tgt.ptr = data) ∧
    (t.tgt.rf.read Config.params s.tgt.ptr = data ∨
      t.tgt.rf.read Config.params s.tgt.ptr = s.tgt.rf.read Config.params s.tgt.ptr) ∧
    t.tgt.ptrValid = false ∧ t.tgt.known = true ∧ t.tgt.ps = .idle ∧ t.tgt.mark = s.tgt.mark ∧
    t.trace = s.trace ++ windowTrace (.wrptr data) 0

/-- 41 R152 to R154, R160: a command whose precondition the target does not meet goes over the wire in full, is
refused at the target and is not signalled to the requester. R160 gives a refused window no meaning; that it changes
no register is the model's reading (log entry 21). -/
def Obligations.CommandWithoutPreconditionIsRefused : Prop :=
  ∀ (i : Instr) (s : State), s.SlotsOk 2 → i ≠ .rstif →
    (s.tgt.known = false ∨ (∀ a, i ≠ .setptr a) ∧ s.tgt.ptrValid = false) → ∃ t v, exec i s = .next t ∧
    t.tgt.Refused ∧ t.tgt.rf = s.tgt.rf ∧ t.trace = s.trace ++ windowTrace i v ∧ t.responses = s.responses ∧
    t.eng.stage = s.eng.stage

/-- 41 R151 to R154, 10 R45: what a command leaves unchanged, whether it takes effect, is refused or is cut off:
the configuration registers, the request latches, the reset pin, the capture register but for `RDPTR`, everything
outside the engine and the target, every register of the register file but the pointed one, and that one too but
for `WRPTR`. With no failing slot the sequencing stage, the request kind and the responses are unchanged too. For a
window that is refused or cut off, what it says of the register file is the model's reading (log entry 21). -/
def Obligations.CommandsLeaveTheRestUnchanged : Prop :=
  ∀ (i : Instr) (s t : State), exec i s = .next t →
    t.eng.transport = s.eng.transport ∧ t.eng.i2cAddress = s.eng.i2cAddress ∧
    t.eng.chipSelectPin = s.eng.chipSelectPin ∧ t.eng.resetPin = s.eng.resetPin ∧
    t.eng.addr = s.eng.addr ∧ t.eng.data = s.eng.data ∧ t.eng.rst = s.eng.rst ∧
    (i ≠ .rdptr → t.eng.rx = s.eng.rx) ∧
    (i = .rdptr → t.tgt.hold = s.tgt.hold ∧ t.eng.cmd1 = s.eng.cmd1) ∧
    (∀ a : Byte, a ≠ s.tgt.ptr → t.tgt.rf.read Config.params a = s.tgt.rf.read Config.params a) ∧
    ((∀ d, i ≠ .wrptr d) → t.tgt.rf = s.tgt.rf) ∧
    t.client = s.client ∧ t.inputs.ops = s.inputs.ops ∧ t.inputs.i2cFaults = s.inputs.i2cFaults ∧
    t.inputs.envChanges = s.inputs.envChanges ∧ t.results = s.results ∧ t.i2cCalls = s.i2cCalls ∧
    (s.SlotsOk 2 → t.eng.stage = s.eng.stage ∧ t.eng.op = s.eng.op ∧ t.response = s.response ∧
      t.responses = s.responses)

/-- 41 R152 to R154: a command that takes effect leaves the parser known, and no flag changes but the pointer's
validity; the pointer itself changes only by `SETPTR`, or when its validity is lost. That a command takes effect while
the reset pin is high too, outside the engine's invariant, is the model's choice (log entry 30). -/
def Obligations.EffectiveCommandsKeepTheOtherFlags : Prop :=
  ∀ (i : Instr) (s t : State), exec i s = .next t → s.SlotsOk 2 → s.tgt.known = true →
    ((∀ a, i ≠ .setptr a) → i ≠ .rstif → s.tgt.ptrValid = true) →
    t.tgt.known = true ∧ t.tgt.mark = s.tgt.mark ∧ t.tgt.ps = .idle ∧
      (t.tgt.ptrValid = true ↔ ∃ a, i = .setptr a)

/-- 41 R160, R162, 30 R101: what the initiator puts on the wire, and its own registers but for `E.RX`, do not
depend on the target, in a window whose slots succeed and in one that is cut off: a complete window is the four events
of its command's wire image, up to the byte of a reply slot; a window with a failing slot, and every window of a
command other than `RDPTR`, is the same in full, with the same registers and the same responses. -/
def Obligations.InitiatorDoesNotDependOnTheTarget : Prop :=
  ∀ (P : Params) (s : State) (T : Target) (i : Instr), fetch s = some i →
    ∃ t u, stepWith P s = .next t ∧ stepWith P { s with tgt := T } = .next u ∧
      { t.eng with rx := 0 } = { u.eng with rx := 0 } ∧
      (i ≠ .rdptr ∨ slotFailure P s ≠ none ∨ slotFailure P (useSlot s) ≠ none →
        t.eng = u.eng ∧ t.trace = u.trace ∧ t.responses = u.responses) ∧
      (slotFailure P s = none → slotFailure P (useSlot s) = none →
        ∃ v w, t.trace = s.trace ++ windowTrace i v ∧ u.trace = s.trace ++ windowTrace i w)

/-- 40 R131, 60 R242, R250: a slot whose shift fails, and the report that goes to the requester unchanged. -/
def Obligations.FailingSlotClosesTheWindowAndRaises : Prop :=
  ∀ (P : Params) (s : State),
    (P.shiftCanFail = false → slotFailure P s = none) ∧
    ∀ r, s.eng.phase = .command ∨ s.eng.phase = .reply → slotFailure P s = some r →
      (frameStep P s).trace = s.trace ++ [Event.xferFail, Event.csHigh] ∧
      (frameStep P s).eng = { s.eng with cs := .high, phase := .idle, stage := .idle, op := .none } ∧
      (frameStep P s).response = some (.err (.transportError r)) ∧
      (frameStep P s).responses = s.responses ++ [Response.err (.transportError r)] ∧
      (frameStep P s).tgt.Refused

/-- 60 R242, R248, R251: a failing slot of either kind of window ends the composite, with the report of the first slot
that failed: no later window is loaded. -/
def Obligations.FailedWindowEndsTheRequest : Prop :=
  ∀ (P : Params) (s : State) (i : Instr) (r : FaultReport), fetch s = some i →
    slotFailure P s = some r ∨ slotFailure P s = none ∧ slotFailure P (useSlot s) = some r →
    ∃ t, stepWith P s = .next t ∧ t.eng.stage = .idle ∧ t.eng.phase = .idle ∧ t.eng.op = .none ∧ t.eng.cs = .high ∧
      t.eng.rx = s.eng.rx ∧ t.responses = s.responses ++ [Response.err (.transportError r)] ∧ t.tgt.known = false ∧
      t.tgt.ptrValid = false ∧ t.tgt.mark = true

/-- 41 R160, 60 R252: a `WRPTR d` window that fails in either slot leaves the pointed register with its old byte or
`d`; that every other register is as it was after this refused window is the model's reading (log entry 21). -/
def Obligations.FailedWriteLeavesOldOrNewByte : Prop :=
  ∀ (P : Params) (d : Byte) (s : State) (r : FaultReport), s.tgt.rf.wf P →
    slotFailure P s = some r ∨ slotFailure P s = none ∧ slotFailure P (useSlot s) = some r →
    let T := (sendFrame P (Instr.wrptr d).frameReq s).tgt
    T.Refused ∧ (T.rf.read P s.tgt.ptr = d ∨ T.rf.read P s.tgt.ptr = s.tgt.rf.read P s.tgt.ptr) ∧
      ∀ a, a ≠ s.tgt.ptr → T.rf.read P a = s.tgt.rf.read P a

/-! ### The target -/

/-- 41 R155, which the spec derives from R151 to R154 and R156 to R160: the target's response to any window. -/
def Obligations.TargetWindowFollowsTheSummary : Prop :=
  ∀ (P : Params) (T : Target) (m : List Byte), T.ps = .idle →
    let T1 := tgtSlot P (m.headD 0) (tgtCsLow T)
    let U := targetWindow P m T
    U.ps = .idle ∧
    (m = [0x7A, 0x7A] → U.known = true ∧ U.ptrValid = false ∧ U.rf = T.rf ∧ U.mark = T.mark) ∧
    (∀ a, T.known = true → m = [0x7D, a] →
      U.ptr = a ∧ U.ptrValid = true ∧ U.known = true ∧ U.rf = T.rf ∧ U.mark = T.mark) ∧
    (∀ d, T.known = true → T.ptrValid = true → m = [0x7E, d] →
      U.rf = (memWrite P T.ptr d T1).rf ∧ U.ptrValid = false ∧ U.known = true ∧ U.mark = T.mark) ∧
    (∀ f, T.known = true → T.ptrValid = true → m = [0x7F, f] →
      tgtDrives P T1 = memRead P T1 T.ptr ∧ U.ptrValid = false ∧ U.known = true ∧ U.rf = T.rf ∧ U.mark = T.mark) ∧
    (m ≠ [0x7A, 0x7A] → ¬(T.known = true ∧ ∃ a, m = [0x7D, a]) →
      ¬(T.known = true ∧ T.ptrValid = true ∧ ∃ d, m = [0x7E, d]) →
      ¬(T.known = true ∧ T.ptrValid = true ∧ ∃ f, m = [0x7F, f]) → U.Refused)

/-- 30 R97: exactly the windows of R97's list are refused. -/
def Obligations.RefusedWindowsAreExactlyTheListed : Prop :=
  ∀ (P : Params) (T : Target) (m : List Byte), T.ps = .idle →
    ((targetWindow P m T).Refused ↔
      windowWellFormed m = false ∨ (T.known = false ∧ m.head? ≠ some 0x7A) ∨
        (T.ptrValid = false ∧ (m.head? = some 0x7E ∨ m.head? = some 0x7F)))

/-- 41 R160: a complete write followed by a surplus slot is refused and leaves the register with either byte. That
the draw is made at the surplus slot (log entry 11) and that every other register is as it was after this refused
window (log entry 21) is the model's reading. -/
def Obligations.SurplusSlotAfterWriteLeavesEitherByte : Prop :=
  ∀ (P : Params) (T : Target) (d b : Byte), T.rf.wf P → T.known = true → T.ptrValid = true →
    (targetWindow P [0x7E, d, b] T).Refused ∧
      ((targetWindow P [0x7E, d, b] T).rf.read P T.ptr = d ∨
        (targetWindow P [0x7E, d, b] T).rf.read P T.ptr = T.rf.read P T.ptr) ∧
      ∀ a, a ≠ T.ptr → (targetWindow P [0x7E, d, b] T).rf.read P a = T.rf.read P a

/-- 41 R160: only a complete `RSTIF` window makes the parser known again, so only a step that runs `RSTIF` does; and
no step clears the refusal mark. -/
def Obligations.OnlyRstifRestoresTheParser : Prop :=
  (∀ (P : Params) (T : Target) (m : List Byte), T.known = false → (targetWindow P m T).known = true →
    m = [0x7A, 0x7A]) ∧
  (∀ s t : State, step s = .next t → s.BetweenWindows → s.tgt.known = false → t.tgt.known = true →
    fetch s = some .rstif) ∧
  ∀ s t : State, step s = .next t → s.tgt.mark = true → t.tgt.mark = true

/-- 20 R64: a write changes the addressed register only: to the byte where one is implemented and writable, else to
one of the old byte and the new one; in the reference target always to the byte. -/
def Obligations.MemWriteChangesOneRegister : Prop :=
  ∀ (P : Params) (T : Target) (a v : Byte), T.rf.wf P →
    (P.implemented a = true → P.writable a = true → (memWrite P a v T).rf.read P a = v) ∧
    ((memWrite P a v T).rf.read P a = v ∨ (memWrite P a v T).rf.read P a = T.rf.read P a) ∧
    (P.ReferenceTarget → (memWrite P a v T).rf.read P a = v) ∧
    ∀ b, b ≠ a → (memWrite P a v T).rf.read P b = T.rf.read P b

/-- 10 R35: a register file in canonical form is determined by what its registers hold. -/
def Obligations.EqualRegisterFilesAreEqualData : Prop :=
  ∀ (P : Params) (x y : RegFile), x.wf P → y.wf P → x.pulsed = y.pulsed → (∀ a, x.read P a = y.read P a) → x = y

/-- 10 R44: the chip changes registers only while no window is open, only in `ENV_WRITES`, there to any byte, and
nothing else of the target or the initiator. That it changes none while the reset pin is high, when the chip is held
in reset (R287), is the model's choice (log entry 12). -/
def Obligations.EnvironmentChangesOnlyItsRegisters : Prop :=
  ∀ (P : Params) (s : State),
    (s.eng.cs = .low → envTurn P s = s) ∧ (s.eng.rst = .high → envTurn P s = s) ∧
    (envTurn P s).eng = s.eng ∧ (envTurn P s).trace = s.trace ∧
    (envTurn P s).tgt.ptr = s.tgt.ptr ∧ (envTurn P s).tgt.ptrValid = s.tgt.ptrValid ∧
    (envTurn P s).tgt.known = s.tgt.known ∧ (envTurn P s).tgt.ps = s.tgt.ps ∧
    (∀ a, P.envWrites a = false → (envTurn P s).tgt.rf.read P a = s.tgt.rf.read P a) ∧
    (∀ a v rest, P.envWrites a = true → s.eng.cs = .high → s.eng.rst ≠ .high → s.tgt.rf.wf P →
      s.inputs.envChanges = [(a, v)] :: rest → (envTurn P s).tgt.rf.read P a = v)

/-! ### Construction, invariants and whole-machine rules -/

/-- 10 R46, R47, R258: the values the spec gives for construction. -/
def Obligations.ConstructionLeavesTheEngineUninitialised : Prop :=
  State.reset.eng.transport = .none ∧ State.reset.eng.op = .none ∧ State.reset.eng.stage = .idle ∧
    State.reset.eng.phase = .idle ∧ State.reset.eng.idx = 0 ∧ State.reset.eng.cs = .undriven ∧
    State.reset.eng.rst = .undriven ∧ State.reset.eng.busy = false ∧ State.reset.tgt.ptrValid = false ∧
    State.reset.tgt.known = false ∧ State.reset.tgt.ps = .idle ∧ State.reset.trace = []

/-- The invariant and the cleanness of 42 R198 hold at construction. -/
def Obligations.ConstructionMeetsTheInvariant : Prop := State.reset.Inv Config.params ∧ State.reset.Clean

/-- 10 R25, R28 to R32, R36: every step keeps the machine's invariant. -/
def Obligations.EveryStepKeepsTheMachineInvariant : Prop :=
  ∀ s t : State, s.Inv Config.params → step s = .next t → t.Inv Config.params

/-- 10 R28 to R32, 40 R128: the initiator's invariant is kept by every single event, inside a window too. -/
def Obligations.EveryEventKeepsTheEngineInvariant : Prop :=
  ∀ (P : Params) (s t : State), s.eng.Inv → eventStep P s = .next t → t.eng.Inv

/-- 40 R127, which the spec derives from R123, R126, R131 and R283: from the pin set-up of `initSPI` onward, chip-select is low exactly while a window is open, and high
otherwise: whenever the engine is idle, between the two windows of a composite (a frame loaded), and during the
whole reset pulse. -/
def Obligations.ChipSelectIsLowExactlyInAWindow : Prop :=
  ∀ (P : Params) (s t : State), s.eng.Inv → eventStep P s = .next t → t.eng.transport = .spi →
    (t.eng.cs = .low ↔ t.eng.phase = .command ∨ t.eng.phase = .reply ∨ t.eng.phase = .release) ∧
    (¬(t.eng.phase = .command ∨ t.eng.phase = .reply ∨ t.eng.phase = .release) → t.eng.cs = .high) ∧
    (t.eng.stage = .idle → t.eng.cs = .high) ∧ (t.eng.phase = .loaded → t.eng.cs = .high) ∧
    (t.eng.rst = .high → t.eng.cs = .high)

/-- 40_framing R128, 42 R207: from a state of the invariant no step faults, and only what has no meaning is refused:
the operation of 43 R230, and an `initSPI` with one pin for both (70 R301). That these stop the machine, and under
which name, is the model's rendering (log entries 14, 19 and 28). -/
def Obligations.NoReachableStateIsStuck : Prop :=
  ∀ s : State, s.Inv Config.params →
    (∀ r, step s ≠ .fault r) ∧
    ∀ r, step s = .refused r →
      (r = .knownUnreliable ∧ ∃ rest, s.inputs.ops = .writeAllThresholds :: rest) ∨
        r = .sharedPins ∧ ∃ p rest, s.inputs.ops = .initSpi p p :: rest ∨
          s.inputs.ops = .request (.initSpi p p) :: rest

/-- 42 R198, which the spec derives from R190, R194, R196 and R151 to R160: as long as no transfer fails, no window
is refused: a step keeps the grammar's state and leaves the refusal mark clear. -/
def Obligations.WithoutFailureNoWindowIsRefused : Prop :=
  ∀ s t : State, s.Inv Config.params → s.Clean → s.NoSlotFault → step s = .next t →
    t.Clean ∧ t.NoSlotFault ∧ t.tgt.mark = false

/-- 10 R21, R25 (b), 60 R257: once chosen, the transport and the rest of the Device Handle never change. -/
def Obligations.DeviceHandleIsWrittenOnce : Prop :=
  ∀ s t : State, step s = .next t → s.eng.transport ≠ .none →
    t.eng.transport = s.eng.transport ∧ t.eng.i2cAddress = s.eng.i2cAddress ∧
      t.eng.chipSelectPin = s.eng.chipSelectPin ∧ t.eng.resetPin = s.eng.resetPin

/-- 42 R190, 60 R257: an uninitialised engine emits no wire event, but by accepting an initialisation. -/
def Obligations.UninitialisedEngineEmitsNothing : Prop :=
  ∀ s t : State, s.Inv Config.params → step s = .next t → t.eng.transport = .none → t.trace = s.trace

/-- 20 R77: the two transports never mix. -/
def Obligations.TransportsNeverMix : Prop :=
  ∀ s t : State, s.Inv Config.params → step s = .next t → ∃ es, t.trace = s.trace ++ es ∧
    (t.eng.transport = .spi → ∀ e ∈ es, e.isI2c = false) ∧ (t.eng.transport = .i2c → ∀ e ∈ es, e.isSpi = false)

/-! ### Requests -/

/-- 60 R243: a register request before initialisation is answered with an error, emits nothing and changes no
state. -/
def Obligations.RegisterRequestBeforeInitialisation : Prop :=
  ∀ (P : Params) (q : Request) (s : State), s.eng.StageOk → s.eng.stage = .idle → s.eng.transport = .none →
    (∀ cs rst, q ≠ .initSpi cs rst) → (∀ adr rst, q ≠ .initI2c adr rst) →
    accept P q s =
      { s with response := some (.err .notInitialised), responses := s.responses ++ [Response.err .notInitialised] }

/-- 60 R244: a second initialisation is answered with an error, emits nothing and changes no state. -/
def Obligations.SecondInitialisationIsRejected : Prop :=
  ∀ (P : Params) (q : Request) (s : State), s.eng.StageOk → s.eng.stage = .idle → s.eng.transport ≠ .none →
    ((∃ cs rst, q = .initSpi cs rst) ∨ ∃ adr rst, q = .initI2c adr rst) →
    accept P q s =
      { s with response := some (.err .alreadyInitialised), responses := s.responses ++ [Response.err .alreadyInitialised] }

/-- 42 R197, which the spec derives from R190 and R194: from the `CsHigh` of a composite's `SETPTR` window to the
`CsLow` of its access window nothing is emitted: after the window's own four events the access command is the next
to be sent. (One step is one window, log entry 1.) -/
def Obligations.PointerSetImmediatelyPrecedesTheAccess : Prop :=
  ∀ (s : State) (a : Byte), s.Inv Config.params → s.eng.stage = .ptr → fetch s = some (.setptr a) → s.SlotsOk 2 →
    ∃ t, step s = .next t ∧ t.trace = s.trace ++ windowTrace (.setptr a) 0 ∧ t.eng.stage = .acc ∧
      ((s.eng.op = .rd ∧ fetch t = some .rdptr) ∨ (s.eng.op = .wr ∧ fetch t = some (.wrptr s.eng.data)))

/-- 42 R192, 70 R299: the response to a read carries the byte of that read's own reply slot; if a slot fails, the
response is an error, with that slot's report, and no byte. -/
def Obligations.ReadResponseIsTheCapturedByte : Prop :=
  ∀ s : State, s.eng.stage = .acc → s.eng.op = .rd → fetch s = some .rdptr →
    (s.SlotsOk 2 → ∃ t v, step s = .next t ∧ t.trace = s.trace ++ windowTrace .rdptr v ∧ t.eng.rx = v ∧
      t.response = some (.okByte v) ∧ t.responses = s.responses ++ [Response.okByte v] ∧ t.eng.stage = .idle ∧
      t.eng.op = .none) ∧
    ∃ t, step s = .next t ∧
      ((∃ r, (slotFailure Config.params s = some r ∨
            slotFailure Config.params s = none ∧ slotFailure Config.params (useSlot s) = some r) ∧
          t.responses = s.responses ++ [Response.err (.transportError r)]) ∨
        ∃ v, t.trace = s.trace ++ windowTrace .rdptr v ∧ t.responses = s.responses ++ [Response.okByte v])

/-- 42 R191, R206: a read request of an SPI-bound engine, from its acceptance to its response: two windows, eight
events, the register's byte, no register changed. (The steps are counted as log entry 1 cuts them.) -/
def Obligations.SpiReadCompletes : Prop :=
  ∀ (P : Params) (s : State) (a : Byte) (rest : List ClientOp), s.SpiReady → s.client = .idle →
    s.inputs.ops = .request (.readRegister a) :: rest → s.SlotsOk 4 → s.NoEnvChange →
    ∃ t v, runWith P 3 s = .next t ∧
      (P.implemented a = true → P.readable a = true → v = s.tgt.rf.read P a) ∧
      t.responses = s.responses ++ [Response.okByte v] ∧ t.tgt.rf = s.tgt.rf ∧ t.tgt.ptrValid = false ∧ t.SpiReady ∧
      t.trace = s.trace ++ (windowTrace (.setptr a) 0 ++ windowTrace .rdptr v)

/-- 42 R193, R206: a write request of an SPI-bound engine, from its acceptance to its response: two windows, eight
events, no register but `a` changed. (The steps are counted as log entry 1 cuts them.) -/
def Obligations.SpiWriteCompletes : Prop :=
  ∀ (P : Params) (s : State) (a d : Byte) (rest : List ClientOp), s.SpiReady → s.client = .idle →
    s.inputs.ops = .request (.writeRegister a d) :: rest → s.SlotsOk 4 → s.NoEnvChange → s.tgt.rf.wf P →
    ∃ t, runWith P 3 s = .next t ∧
      (P.implemented a = true → P.writable a = true → t.tgt.rf.read P a = d) ∧
      (∀ b, b ≠ a → t.tgt.rf.read P b = s.tgt.rf.read P b) ∧
      t.responses = s.responses ++ [Response.ok] ∧ t.tgt.ptrValid = false ∧ t.SpiReady ∧
      t.trace = s.trace ++ (windowTrace (.setptr a) 0 ++ windowTrace (.wrptr d) 0)

/-- 20 R72 (i), which the spec derives from R63, R64, R71 and R152 to R154: in the reference target a register read
after a write to it returns the byte written; and what may lie between the two keeps the register: every step but
the reset pulse and a `WRPTR` that points at `a` leaves register `a` as it is, so that any number of operations that
do not write it may come in between. (The steps are counted as log entry 1 cuts them.) -/
def Obligations.ReadAfterWriteReturnsTheByte : Prop :=
  (∀ (P : Params) (s : State) (a d : Byte) (rest : List ClientOp), P.ReferenceTarget → s.SpiReady → s.client = .idle →
    s.inputs.ops = .request (.writeRegister a d) :: .request (.readRegister a) :: rest → s.NoSlotFault →
    s.tgt.rf.wf P → ∃ t, runWith P 8 s = .next t ∧ t.results = s.results ++ [Response.ok, Response.okByte d] ∧
      t.inputs.ops = rest) ∧
    ∀ (P : Params) (s t : State) (a : Byte), P.ReferenceTarget → s.Inv P → stepWith P s = .next t → s.eng.stage ≠ .pins →
      ((∃ d, fetch s = some (.wrptr d)) → s.tgt.ptr ≠ a) → t.tgt.rf.read P a = s.tgt.rf.read P a

/-- 42 R201: a register request of an I2C-bound engine is one external call, its result passed through, its failure
surfaced; no state of the SPI parser changes (of the target, at most the register file, by the chip itself, R44). -/
def Obligations.I2cRequestIsOneCall : Prop :=
  ∀ s : State, s.eng.stage = .i2c → s.eng.phase = .idle →
    (s.eng.op = .rd → s.inputs.i2cFaults.headD none = none → ∃ t v, step s = .next t ∧
      t.trace = s.trace ++ [Event.i2cRead s.eng.i2cAddress s.eng.addr v] ∧ t.responses = s.responses ++ [Response.okByte v] ∧
      t.eng.stage = .idle ∧ t.eng.op = .none ∧ { t.tgt with rf := s.tgt.rf } = s.tgt) ∧
    (s.eng.op = .wr → s.inputs.i2cFaults.headD none = none → ∃ t, step s = .next t ∧
      t.trace = s.trace ++ [Event.i2cWrite s.eng.i2cAddress s.eng.addr s.eng.data] ∧ t.responses = s.responses ++ [Response.ok] ∧
      t.eng.stage = .idle ∧ t.eng.op = .none ∧ { t.tgt with rf := s.tgt.rf } = s.tgt) ∧
    (∀ r, s.eng.op = .rd ∨ s.eng.op = .wr → s.inputs.i2cFaults.headD none = some r → ∃ t, step s = .next t ∧
      t.trace = s.trace ++ [Event.i2cFail s.eng.i2cAddress s.eng.addr] ∧
      t.responses = s.responses ++ [Response.err (.transportError r)] ∧ t.eng.stage = .idle ∧ t.eng.op = .none ∧
      { t.tgt with rf := s.tgt.rf } = s.tgt)

/-! ### Initialisation -/

/-- 70 R284 to R287, R298: the reset pulse: high, held at least 10 ms, low, with nothing between; from the high
edge on the target is reset, and no window opens. While the pin is high every register holds its reset contents; after
the third step, at whose end the chip may act again (R44, log entry 12), every register outside `ENV_WRITES` does, and
all do if the chip changes nothing. -/
def Obligations.ResetPulseResetsTheTarget : Prop :=
  ∀ s : State, s.eng.stage = .pins → s.eng.phase = .idle →
    ∃ t1 t2 t3 d, step s = .next t1 ∧ step t1 = .next t2 ∧ step t2 = .next t3 ∧ 10 ≤ d ∧
      t3.trace = s.trace ++ pulseTrace d ∧
      t1.eng.rst = .high ∧ t2.eng.rst = .high ∧ t3.eng.rst = .low ∧
      (∀ a, t1.tgt.rf.read Config.params a = Config.params.rfReset a) ∧ t2.tgt.rf = t1.tgt.rf ∧
      (∀ a, Config.params.envWrites a = false → t3.tgt.rf.read Config.params a = Config.params.rfReset a) ∧
      (s.NoEnvChange → t3.tgt.rf = t1.tgt.rf) ∧
      t3.tgt.known = false ∧ t3.tgt.ptrValid = false ∧ t3.tgt.ps = .idle

/-- 42 R196, 10 R49, 70 R289: `initSPI` from construction's mode to its response, for two different pins (for one pin
a model has no move, 70 R301); every register outside `ENV_WRITES` holds its reset contents. (The steps are counted as
log entries 1 and 13 cut them.) -/
def Obligations.InitSpiCompletes : Prop :=
  ∀ (P : Params) (s : State) (cs rst : PinId) (rest : List ClientOp), s.eng.transport = .none → s.eng.stage = .idle →
    s.eng.phase = .idle → s.tgt.ps = .idle → s.client = .idle → s.inputs.ops = .request (.initSpi cs rst) :: rest →
    cs ≠ rst → s.SlotsOk 2 →
    ∃ t d, runWith P 6 s = .next t ∧ 10 ≤ d ∧ t.SpiReady ∧ t.eng.chipSelectPin = cs ∧ t.eng.resetPin = rst ∧
      t.eng.op = .none ∧ t.eng.idx = 2 ∧ t.tgt.ptrValid = false ∧
      (∀ a, P.envWrites a = false → t.tgt.rf.read P a = P.rfReset a) ∧ t.responses = s.responses ++ [Response.ok] ∧
      t.trace = s.trace ++ (spiPinTrace cs rst ++ pulseTrace d ++ postResetTrace P ++ windowTrace .rstif 0)

/-- 42 R195, 10 R49: `initI2C` from construction's mode to its response: no window, chip-select untouched;
every register outside `ENV_WRITES` holds its reset contents. (The steps are counted as log entries 1 and 13 cut
them.) -/
def Obligations.InitI2cCompletes : Prop :=
  ∀ (P : Params) (s : State) (adr : I2cAddr) (rst : PinId) (rest : List ClientOp), s.eng.transport = .none →
    s.eng.stage = .idle → s.eng.phase = .idle → s.client = .idle →
    s.inputs.ops = .request (.initI2c adr rst) :: rest →
    ∃ t d, runWith P 5 s = .next t ∧ 10 ≤ d ∧ t.eng.transport = .i2c ∧ t.eng.i2cAddress = adr ∧ t.eng.resetPin = rst ∧
      t.eng.chipSelectPin = s.eng.chipSelectPin ∧ t.eng.cs = s.eng.cs ∧ t.eng.rst = .low ∧ t.eng.stage = .idle ∧
      t.eng.op = .none ∧ t.tgt.known = false ∧
      (∀ a, P.envWrites a = false → t.tgt.rf.read P a = P.rfReset a) ∧ t.responses = s.responses ++ [Response.ok] ∧
      t.trace = s.trace ++ (Event.pinMode rst :: pulseTrace d ++ postResetTrace P)

/-! ### The client layer -/

/-- 43 R222: clearing the interrupt flag clears bit 0 and leaves the other bits. -/
def Obligations.InterruptClearClearsBitZeroOnly : Prop :=
  ∀ m : Byte, (clearInterruptFlag m).getLsbD 0 = false ∧
    (∀ k, 1 ≤ k → k < 8 → (clearInterruptFlag m).getLsbD k = m.getLsbD k) ∧
    (m.getLsbD 0 = false → clearInterruptFlag m = m) ∧ (m.getLsbD 0 = true → clearInterruptFlag m = m - 1)

/-- 43 R229: an operation with an invalid argument is answered at once; nothing reaches the engine or the wire. -/
def Obligations.InvalidArgumentReachesNoHardware : Prop :=
  ∀ (s : State) (op : ClientOp) (rest : List ClientOp), s.eng.stage = .idle → s.eng.phase = .idle →
    s.client = .idle → s.inputs.ops = op :: rest → op.argsOk = false →
    ∃ t, step s = .next t ∧ t.results = s.results ++ [Response.err .invalidArgument] ∧ t.inputs.ops = rest ∧
      t.eng = s.eng ∧ t.trace = s.trace ∧ t.responses = s.responses

/-- 43 R227, R228: which request the channel and multi-touch operations make, and when they report
invalid-argument instead. -/
def Obligations.ChannelAndTouchOperationsCheckTheirArgument : Prop :=
  ∀ (P : Params) (c n : Nat) (v : Byte),
    clientStart P (.setSensorInputThreshold c v) =
      (if 1 ≤ c ∧ c ≤ 8 then .ask (.writeRegister (P.aThreshold c) v) .single else .done (.err .invalidArgument)) ∧
    clientStart P (.getSensorInputThreshold c) =
      (if 1 ≤ c ∧ c ≤ 8 then .ask (.readRegister (P.aThreshold c)) .single else .done (.err .invalidArgument)) ∧
    clientStart P (.setMultipleTouchConfiguration false n) = .ask (.writeRegister P.aMultiTouchConfig 0x00) .single ∧
    clientStart P (.setMultipleTouchConfiguration true n) =
      (if 1 ≤ n ∧ n ≤ 4 then .ask (.writeRegister P.aMultiTouchConfig (P.mtCode n)) .single
        else .done (.err .invalidArgument))

/-- 43 R227: in the reference target each channel keeps its own threshold: what was set for a channel is read back
after another channel's was set (with the one constraint that 92 D27 puts on the threshold addresses). (The steps are
counted as log entries 1 and 18 cut them.) -/
def Obligations.EachChannelKeepsItsThreshold : Prop :=
  ∀ (P : Params) (s : State) (c d : Nat) (v w : Byte) (rest : List ClientOp), P.ReferenceTarget → P.ThresholdsDistinct →
    1 ≤ c → c ≤ 8 → 1 ≤ d → d ≤ 8 → c ≠ d → s.SpiReady → s.client = .idle →
    s.inputs.ops = .setSensorInputThreshold c v :: .setSensorInputThreshold d w :: .getSensorInputThreshold c :: rest →
    s.NoSlotFault → s.tgt.rf.wf P →
    ∃ t, runWith P 12 s = .next t ∧ t.results = s.results ++ [Response.ok, Response.ok, Response.okByte v] ∧
      t.inputs.ops = rest

/-- 43 R221, R223: `getSensorInputs` in the reference target with nothing latched: one register read, no other
effect. (The steps are counted as log entries 1 and 18 cut them.) -/
def Obligations.GetSensorInputsWithNothingLatched : Prop :=
  ∀ (P : Params) (s : State) (rest : List ClientOp), P.ReferenceTarget → s.SpiReady → s.client = .idle →
    s.inputs.ops = .getSensorInputs :: rest → s.NoSlotFault → s.tgt.rf.read P P.aSensorInputStatus = 0x00 →
    ∃ t, runWith P 4 s = .next t ∧ t.results = s.results ++ [Response.okByte 0x00] ∧ t.tgt.rf = s.tgt.rf ∧ t.SpiReady ∧
      t.trace = s.trace ++ (windowTrace (.setptr P.aSensorInputStatus) 0 ++ windowTrace .rdptr 0x00)

/-- 43 R221 to R223: `getSensorInputs` in the reference target with a touch latched: the status read, then exactly
one read and one write of main control, the write with bit 0 cleared; the result is the status byte. (The steps are
counted as log entries 1 and 18 cut them.) -/
def Obligations.GetSensorInputsClearsTheInterrupt : Prop :=
  ∀ (P : Params) (s : State) (rest : List ClientOp), P.ReferenceTarget → s.SpiReady → s.client = .idle →
    s.inputs.ops = .getSensorInputs :: rest → s.NoSlotFault → s.tgt.rf.wf P →
    s.tgt.rf.read P P.aSensorInputStatus ≠ 0x00 →
    let st := s.tgt.rf.read P P.aSensorInputStatus
    let m := s.tgt.rf.read P P.aMainControl
    ∃ t, runWith P 10 s = .next t ∧ t.results = s.results ++ [Response.okByte st] ∧
      t.tgt.rf.read P P.aMainControl = m &&& 0xFE ∧
      (∀ a, a ≠ P.aMainControl → t.tgt.rf.read P a = s.tgt.rf.read P a) ∧ t.SpiReady ∧
      t.trace = s.trace ++
        (windowTrace (.setptr P.aSensorInputStatus) 0 ++ windowTrace .rdptr st ++
          windowTrace (.setptr P.aMainControl) 0 ++ windowTrace .rdptr m ++
          windowTrace (.setptr P.aMainControl) 0 ++ windowTrace (.wrptr (m &&& 0xFE)) 0)

/-- 60 R251: an error response ends a client operation, is its result, and no further request is made. -/
def Obligations.ErrorEndsTheClientOperation : Prop :=
  ∀ (s : State) (c : ErrorCause), s.eng.stage = .idle → s.eng.phase = .idle → s.client ≠ .idle →
    s.response = some (.err c) →
    ∃ t, step s = .next t ∧ t.client = .idle ∧ t.results = s.results ++ [Response.err c] ∧ t.eng = s.eng ∧ t.trace = s.trace ∧
      t.responses = s.responses

/-- 42 R205: the client's initialisation operations ask for the engine's initialisation with the writes of
`DEFAULT_CFG` still to be made; after its `OK`, and after each write's, the next write is requested, under SPI as its
set-pointer frame and under I2C as the delegate's call; with none left the operation is over with `OK`. That it is
the client's operations, and not a request handed straight to the selector, that apply the list is the model's
arrangement (log entry 22). -/
def Obligations.DefaultConfigurationFollowsInitialisation : Prop :=
  (∀ (P : Params) (cs rst : PinId) (adr : I2cAddr),
    clientStart P (.initSpi cs rst) = .ask (.initSpi cs rst) (.configure P.defaultCfg) ∧
      clientStart P (.initI2c adr rst) = .ask (.initI2c adr rst) (.configure P.defaultCfg)) ∧
  (∀ (s : State) (a v : Byte) (rest : List (Byte × Byte)), s.SpiReady → s.client = .configure ((a, v) :: rest) →
    s.response = some .ok →
    ∃ t, step s = .next t ∧ fetch t = some (.setptr a) ∧ t.eng.op = .wr ∧ t.eng.addr = a ∧ t.eng.data = v ∧
      t.client = .configure rest ∧ t.trace = s.trace) ∧
  (∀ (s : State) (a v : Byte) (rest : List (Byte × Byte)), s.eng.transport = .i2c → s.eng.stage = .idle →
    s.eng.phase = .idle → s.client = .configure ((a, v) :: rest) → s.response = some .ok →
    ∃ t, step s = .next t ∧ t.eng.stage = .i2c ∧ t.eng.op = .wr ∧ t.eng.addr = a ∧ t.eng.data = v ∧
      t.client = .configure rest ∧ t.trace = s.trace) ∧
  ∀ s : State, s.eng.stage = .idle → s.eng.phase = .idle → s.client = .configure [] → s.response = some .ok →
    ∃ t, step s = .next t ∧ t.results = s.results ++ [Response.ok] ∧ t.client = .idle ∧ t.eng = s.eng ∧
      t.trace = s.trace

/-- 43 R230: a model must not give the write to all thresholds at once a meaning; that the step is refused, by the
name `knownUnreliable`, is the model's rendering of it (log entry 19). -/
def Obligations.WriteAllThresholdsIsRefused : Prop :=
  ∀ (s : State) (rest : List ClientOp), s.eng.stage = .idle → s.eng.phase = .idle → s.client = .idle →
    s.inputs.ops = .writeAllThresholds :: rest → step s = .refused .knownUnreliable

/-- 70 R301: a model has no move in which `initSPI` is given one pin for both: it is refused, whether asked for as
an operation or handed straight to the selector, so no step of an engine leads to shared pins. That the stop is a
refusal, in every mode, is the model's rendering (log entry 28). -/
def Obligations.InitSpiWithOnePinHasNoMove : Prop :=
  (∀ (s : State) (p : PinId) (rest : List ClientOp), s.eng.stage = .idle → s.eng.phase = .idle → s.client = .idle →
    (s.inputs.ops = .initSpi p p :: rest ∨ s.inputs.ops = .request (.initSpi p p) :: rest) →
    step s = .refused .sharedPins) ∧
  ∀ s t : State, (s.eng.transport = .spi → s.eng.chipSelectPin ≠ s.eng.resetPin) → step s = .next t →
    t.eng.transport = .spi → t.eng.chipSelectPin ≠ t.eng.resetPin

/-- 60 R240: the code of every response and cause, whatever a failing primitive reported. -/
def Obligations.ErrorCodesFollowTheTable : Prop :=
  Response.ok.code = 0 ∧ (∀ v, (Response.okByte v).code = 0) ∧ ErrorCause.invalidArgument.code = 1 ∧
    (∀ r, (ErrorCause.transportError r).code = 2) ∧ ErrorCause.notInitialised.code = 3 ∧
    ErrorCause.alreadyInitialised.code = 4 ∧ ∀ c, (Response.err c).code = c.code

/-- 60 R242, R248, R251: what a failing primitive reported reaches the caller of a register request unchanged. Under SPI,
whichever slot of the two windows of a read or a write fails first, with the report `r`, the caller's result is
exactly `ERR(TransportError)` with `r`, and nothing but the events up to that slot and the `CsHigh` is emitted: after
a failure in the `SETPTR` window the access window is never opened. Under I2C the same is true of the one call. (The
steps are counted as log entry 1 cuts them.) -/
def Obligations.FailureReportReachesTheCaller : Prop :=
  ∀ (P : Params) (s : State) (q : Request) (a : Byte) (access : Instr) (r : FaultReport) (rest : List ClientOp),
    q = .readRegister a ∧ access = .rdptr ∨ (∃ d, q = .writeRegister a d ∧ access = .wrptr d) →
    s.client = .idle → s.inputs.ops = .request q :: rest →
    (s.SpiReady →
      (slotFailure P s = some r → s.EndsWithReport P 3 r rest [.csLow, .xferFail, .csHigh]) ∧
      (slotFailure P s = none →
        (slotFailure P (useSlot s) = some r →
          s.EndsWithReport P 3 r rest [.csLow, .tx 0x7D, .xferFail, .csHigh]) ∧
        (slotFailure P (useSlot s) = none →
          (slotFailure P (useSlot (useSlot s)) = some r →
            s.EndsWithReport P 4 r rest (windowTrace (.setptr a) 0 ++ [.csLow, .xferFail, .csHigh])) ∧
          (slotFailure P (useSlot (useSlot s)) = none → slotFailure P (useSlot (useSlot (useSlot s))) = some r →
            s.EndsWithReport P 4 r rest
              (windowTrace (.setptr a) 0 ++ [.csLow, .tx access.frameReq.c0, .xferFail, .csHigh]))))) ∧
    (s.eng.transport = .i2c → s.eng.stage = .idle → s.eng.phase = .idle → i2cFailure s = some r →
      s.EndsWithReport P 3 r rest [.i2cFail s.eng.i2cAddress a])

end
end

