-- ==== Sys2Proof/Laws/RegFile.lean ====
section
/-! SUPPORT. The laws of the register file: reading after writing, and that every operation on it keeps its
canonical form. -/

namespace Sys2Proof.Machine

theorem cellsGet_put_same (a : Nat) (v : Byte) (l : List Host.Cell) : cellsGet a (cellsPut a v l) = some v := by
  induction l with
  | nil => simp [cellsPut, cellsGet]
  | cons c tail ih =>
    simp only [cellsPut]
    split
    · simp [cellsGet]
    · split
      · simp [cellsGet]
      · rename_i _ hne
        simp [cellsGet, hne, ih]

theorem cellsGet_put_other {a b : Nat} (h : b ≠ a) (v : Byte) (l : List Host.Cell) :
    cellsGet b (cellsPut a v l) = cellsGet b l := by
  induction l with
  | nil => simp [cellsPut, cellsGet, h.symm]
  | cons c tail ih =>
    simp only [cellsPut]
    split
    · simp [cellsGet, h.symm]
    · split
      · rename_i _ hc
        simp [cellsGet, h.symm, hc]
      · simp [cellsGet, ih]

theorem cellsGet_drop_other {a b : Nat} (h : b ≠ a) (l : List Host.Cell) :
    cellsGet b (cellsDrop a l) = cellsGet b l := by
  induction l with
  | nil => rfl
  | cons c tail ih =>
    simp only [cellsDrop]
    split
    · rename_i hc
      simp [cellsGet, hc, h.symm]
    · simp [cellsGet, ih]

theorem cellsGet_eq_none_of_lt {a : Nat} {l : List Host.Cell} (h : ∀ c ∈ l, a < c.1) : cellsGet a l = none := by
  induction l with
  | nil => rfl
  | cons c tail ih =>
    have hc : c.1 ≠ a := by have := h c (by simp); omega
    simp [cellsGet, hc, ih fun d hd => h d (by simp [hd])]

theorem cellsGet_drop_same {a : Nat} {l : List Host.Cell} (h : l.Pairwise (fun c d => c.1 < d.1)) :
    cellsGet a (cellsDrop a l) = none := by
  induction l with
  | nil => rfl
  | cons c tail ih =>
    rw [List.pairwise_cons] at h
    simp only [cellsDrop]
    split
    · rename_i hc
      exact cellsGet_eq_none_of_lt fun d hd => hc ▸ h.1 d hd
    · rename_i hc
      simp [cellsGet, hc, ih h.2]

theorem mem_cellsPut {a : Nat} {v : Byte} {l : List Host.Cell} {c : Host.Cell} (h : c ∈ cellsPut a v l) :
    c = (a, v) ∨ c ∈ l := by
  induction l with
  | nil => simpa [cellsPut] using h
  | cons d tail ih =>
    simp only [cellsPut] at h
    split at h
    · simpa using h
    · split at h
      · rcases List.mem_cons.mp h with h | h
        · exact .inl h
        · exact .inr (by simp [h])
      · rcases List.mem_cons.mp h with h | h
        · exact .inr (by simp [h])
        · exact (ih h).imp_right fun h => by simp [h]

theorem mem_of_mem_cellsDrop {a : Nat} {l : List Host.Cell} {c : Host.Cell} (h : c ∈ cellsDrop a l) : c ∈ l := by
  induction l with
  | nil => simp [cellsDrop] at h
  | cons d tail ih =>
    simp only [cellsDrop] at h
    split at h
    · simp [h]
    · rcases List.mem_cons.mp h with h | h
      · simp [h]
      · simp [ih h]

theorem cellsPut_sorted {a : Nat} {v : Byte} {l : List Host.Cell} (h : l.Pairwise (fun c d => c.1 < d.1)) :
    (cellsPut a v l).Pairwise (fun c d => c.1 < d.1) := by
  induction l with
  | nil => simp [cellsPut]
  | cons c tail ih =>
    rw [List.pairwise_cons] at h
    simp only [cellsPut]
    split
    · rename_i hlt
      refine List.pairwise_cons.mpr ⟨fun d hd => ?_, List.pairwise_cons.mpr h⟩
      rcases List.mem_cons.mp hd with rfl | hd
      · exact hlt
      · exact Nat.lt_trans hlt (h.1 d hd)
    · split
      · rename_i hc
        exact List.pairwise_cons.mpr ⟨fun d hd => hc ▸ h.1 d hd, h.2⟩
      · rename_i hlt hne
        refine List.pairwise_cons.mpr ⟨fun d hd => ?_, ih h.2⟩
        rcases mem_cellsPut hd with rfl | hd
        · show c.1 < a
          omega
        · exact h.1 d hd

theorem cellsDrop_sorted {a : Nat} {l : List Host.Cell} (h : l.Pairwise (fun c d => c.1 < d.1)) :
    (cellsDrop a l).Pairwise (fun c d => c.1 < d.1) := by
  induction l with
  | nil => simp [cellsDrop]
  | cons c tail ih =>
    rw [List.pairwise_cons] at h
    simp only [cellsDrop]
    split
    · exact h.2
    · exact List.pairwise_cons.mpr ⟨fun d hd => h.1 d (mem_of_mem_cellsDrop hd), ih h.2⟩

@[simp] theorem RegFile.write_pulsed (P : Params) (rf : RegFile) (a v : Byte) :
    (rf.write P a v).pulsed = rf.pulsed := by
  unfold RegFile.write
  split <;> rfl

/-- A read after a write to the same register gives the byte written. -/
theorem RegFile.read_write_same {P : Params} {rf : RegFile} (h : rf.wf P) (a v : Byte) :
    (rf.write P a v).read P a = v := by
  unfold RegFile.write RegFile.read
  split
  · rename_i hv
    simp [cellsGet_drop_same h.1, hv]
  · simp [cellsGet_put_same]

/-- A write leaves every other register alone (R64). -/
theorem RegFile.read_write_other (P : Params) (rf : RegFile) {a b : Byte} (h : b ≠ a) (v : Byte) :
    (rf.write P a v).read P b = rf.read P b := by
  have hn : b.toNat ≠ a.toNat := fun e => h (BitVec.eq_of_toNat_eq e)
  unfold RegFile.write RegFile.read
  split
  · simp [cellsGet_drop_other hn]
  · simp [cellsGet_put_other hn]

/-- A write keeps the canonical form. -/
theorem RegFile.write_wf {P : Params} {rf : RegFile} (h : rf.wf P) (a v : Byte) : (rf.write P a v).wf P := by
  unfold RegFile.write
  split
  · exact ⟨cellsDrop_sorted h.1, fun c hc => h.2 c (mem_of_mem_cellsDrop hc)⟩
  · rename_i hv
    refine ⟨cellsPut_sorted h.1, fun c hc => ?_⟩
    rcases mem_cellsPut hc with rfl | hc
    · exact ⟨a.isLt, by simpa using hv⟩
    · exact h.2 c hc

theorem memWrite_wf {P : Params} {T : Target} (h : T.rf.wf P) (a v : Byte) : (memWrite P a v T).rf.wf P :=
  RegFile.write_wf h _ _

theorem undoDraw_wf {P : Params} {T : Target} (h : T.rf.wf P) : (undoDraw P T).rf.wf P := by
  unfold undoDraw
  split
  · exact h
  · exact RegFile.write_wf h _ _

theorem applyChanges_wf {P : Params} {rf : RegFile} (h : rf.wf P) (l : List (Byte × Byte)) :
    (applyChanges P l rf).wf P := by
  induction l generalizing rf with
  | nil => exact h
  | cons c tail ih =>
    simp only [applyChanges]
    split
    · exact ih (RegFile.write_wf h _ _)
    · exact ih h

/-- The chip's changes leave every register outside `ENV_WRITES` alone (R44). -/
theorem applyChanges_read_other {P : Params} {a : Byte} (h : P.envWrites a = false) (l : List (Byte × Byte))
    (rf : RegFile) : (applyChanges P l rf).read P a = rf.read P a := by
  induction l generalizing rf with
  | nil => rfl
  | cons c tail ih =>
    simp only [applyChanges]
    rw [ih]
    split
    · exact RegFile.read_write_other P rf (fun e => by simp_all) _
    · rfl

/-- Nothing listed is in canonical form, before a reset pulse and after one. -/
theorem RegFile.wf_nil (P : Params) (pulsed : Bool) : (RegFile.mk pulsed []).wf P := by
  simp [RegFile.wf]

theorem tgtSlot_wf {P : Params} {T : Target} (h : T.rf.wf P) (b : Byte) : (tgtSlot P b T).rf.wf P := by
  show (slotEffect P b T).rf.wf P
  unfold slotEffect
  split
  · exact h
  · exact h
  · exact h
  · exact h
  · exact memWrite_wf h _ _
  · exact h
  · exact undoDraw_wf h
  · exact h

theorem tgtXferFail_wf {P : Params} {T : Target} (h : T.rf.wf P) (d : Option Byte) :
    (tgtXferFail P d T).rf.wf P := by
  unfold tgtXferFail
  split
  · exact h
  · split
    · exact RegFile.write_wf h _ _
    · exact h

theorem tgtCsHigh_rf (P : Params) (T : Target) : (tgtCsHigh P T).rf = T.rf := by
  unfold tgtCsHigh
  split <;> rfl

theorem tgtCsHigh_wf {P : Params} {T : Target} (h : T.rf.wf P) : (tgtCsHigh P T).rf.wf P := by
  rw [tgtCsHigh_rf]
  exact h

theorem tgtHardReset_wf (P : Params) (T : Target) : (tgtHardReset P T).rf.wf P := RegFile.wf_nil P true

end Sys2Proof.Machine
end

