-- ==== Sys2Proof/Laws/State.lean ====
section
/-! SUPPORT. One lemma per field of the state and update of it, so that no proof unfolds a record update. -/

namespace Sys2Proof.Machine

section Emit
variable (e : Event) (s : State)
@[simp] theorem State.emit_eng : (s.emit e).eng = s.eng := rfl
@[simp] theorem State.emit_tgt : (s.emit e).tgt = s.tgt := rfl
@[simp] theorem State.emit_client : (s.emit e).client = s.client := rfl
@[simp] theorem State.emit_response : (s.emit e).response = s.response := rfl
@[simp] theorem State.emit_inputs : (s.emit e).inputs = s.inputs := rfl
@[simp] theorem State.emit_trace : (s.emit e).trace = s.trace ++ [e] := rfl
@[simp] theorem State.emit_responses : (s.emit e).responses = s.responses := rfl
@[simp] theorem State.emit_results : (s.emit e).results = s.results := rfl
@[simp] theorem State.emit_i2cCalls : (s.emit e).i2cCalls = s.i2cCalls := rfl
end Emit

section OnTarget
variable (f : Target → Target) (s : State)
@[simp] theorem State.onTarget_eng : (s.onTarget f).eng = s.eng := rfl
@[simp] theorem State.onTarget_tgt : (s.onTarget f).tgt = f s.tgt := rfl
@[simp] theorem State.onTarget_client : (s.onTarget f).client = s.client := rfl
@[simp] theorem State.onTarget_response : (s.onTarget f).response = s.response := rfl
@[simp] theorem State.onTarget_inputs : (s.onTarget f).inputs = s.inputs := rfl
@[simp] theorem State.onTarget_trace : (s.onTarget f).trace = s.trace := rfl
@[simp] theorem State.onTarget_responses : (s.onTarget f).responses = s.responses := rfl
@[simp] theorem State.onTarget_results : (s.onTarget f).results = s.results := rfl
@[simp] theorem State.onTarget_i2cCalls : (s.onTarget f).i2cCalls = s.i2cCalls := rfl
end OnTarget

section OnEngine
variable (f : Engine → Engine) (s : State)
@[simp] theorem State.onEngine_eng : (s.onEngine f).eng = f s.eng := rfl
@[simp] theorem State.onEngine_tgt : (s.onEngine f).tgt = s.tgt := rfl
@[simp] theorem State.onEngine_client : (s.onEngine f).client = s.client := rfl
@[simp] theorem State.onEngine_response : (s.onEngine f).response = s.response := rfl
@[simp] theorem State.onEngine_inputs : (s.onEngine f).inputs = s.inputs := rfl
@[simp] theorem State.onEngine_trace : (s.onEngine f).trace = s.trace := rfl
@[simp] theorem State.onEngine_responses : (s.onEngine f).responses = s.responses := rfl
@[simp] theorem State.onEngine_results : (s.onEngine f).results = s.results := rfl
@[simp] theorem State.onEngine_i2cCalls : (s.onEngine f).i2cCalls = s.i2cCalls := rfl
end OnEngine

section Respond
variable (r : Response) (s : State)
@[simp] theorem State.respond_eng : (s.respond r).eng = s.eng := rfl
@[simp] theorem State.respond_tgt : (s.respond r).tgt = s.tgt := rfl
@[simp] theorem State.respond_client : (s.respond r).client = s.client := rfl
@[simp] theorem State.respond_response : (s.respond r).response = some r := rfl
@[simp] theorem State.respond_inputs : (s.respond r).inputs = s.inputs := rfl
@[simp] theorem State.respond_trace : (s.respond r).trace = s.trace := rfl
@[simp] theorem State.respond_responses : (s.respond r).responses = s.responses ++ [r] := rfl
@[simp] theorem State.respond_results : (s.respond r).results = s.results := rfl
@[simp] theorem State.respond_i2cCalls : (s.respond r).i2cCalls = s.i2cCalls := rfl
end Respond

section Finish
variable (r : Response) (s : State)
@[simp] theorem State.finish_eng : (s.finish r).eng = { s.eng with op := .none, stage := .idle } := rfl
@[simp] theorem State.finish_tgt : (s.finish r).tgt = s.tgt := rfl
@[simp] theorem State.finish_client : (s.finish r).client = s.client := rfl
@[simp] theorem State.finish_response : (s.finish r).response = some r := rfl
@[simp] theorem State.finish_inputs : (s.finish r).inputs = s.inputs := rfl
@[simp] theorem State.finish_trace : (s.finish r).trace = s.trace := rfl
@[simp] theorem State.finish_responses : (s.finish r).responses = s.responses ++ [r] := rfl
@[simp] theorem State.finish_results : (s.finish r).results = s.results := rfl
@[simp] theorem State.finish_i2cCalls : (s.finish r).i2cCalls = s.i2cCalls := rfl
end Finish

section Raise
variable (c : ErrorCause) (s : State)
@[simp] theorem State.raise_eng :
    (s.raise c).eng = { s.eng with op := .none, stage := .idle, phase := .idle } := rfl
@[simp] theorem State.raise_tgt : (s.raise c).tgt = s.tgt := rfl
@[simp] theorem State.raise_client : (s.raise c).client = s.client := rfl
@[simp] theorem State.raise_response : (s.raise c).response = some (.err c) := rfl
@[simp] theorem State.raise_inputs : (s.raise c).inputs = s.inputs := rfl
@[simp] theorem State.raise_trace : (s.raise c).trace = s.trace := rfl
@[simp] theorem State.raise_responses : (s.raise c).responses = s.responses ++ [.err c] := rfl
@[simp] theorem State.raise_results : (s.raise c).results = s.results := rfl
@[simp] theorem State.raise_i2cCalls : (s.raise c).i2cCalls = s.i2cCalls := rfl
end Raise

section TakeResponse
variable (s : State)
@[simp] theorem State.takeResponse_eng : s.takeResponse.eng = s.eng := rfl
@[simp] theorem State.takeResponse_tgt : s.takeResponse.tgt = s.tgt := rfl
@[simp] theorem State.takeResponse_client : s.takeResponse.client = s.client := rfl
@[simp] theorem State.takeResponse_response : s.takeResponse.response = none := rfl
@[simp] theorem State.takeResponse_inputs : s.takeResponse.inputs = s.inputs := rfl
@[simp] theorem State.takeResponse_trace : s.takeResponse.trace = s.trace := rfl
@[simp] theorem State.takeResponse_responses : s.takeResponse.responses = s.responses := rfl
@[simp] theorem State.takeResponse_results : s.takeResponse.results = s.results := rfl
@[simp] theorem State.takeResponse_i2cCalls : s.takeResponse.i2cCalls = s.i2cCalls := rfl
end TakeResponse

section LoadFrame
variable (f : FrameReq) (s : State)
@[simp] theorem loadFrame_eng : (loadFrame f s).eng =
    { s.eng with cmd0 := f.c0, cmd1 := if f.len = 2 then f.c1 else s.eng.cmd1, len := f.len, cap := f.cap,
                 phase := .loaded } := rfl
@[simp] theorem loadFrame_tgt : (loadFrame f s).tgt = s.tgt := rfl
@[simp] theorem loadFrame_client : (loadFrame f s).client = s.client := rfl
@[simp] theorem loadFrame_response : (loadFrame f s).response = s.response := rfl
@[simp] theorem loadFrame_inputs : (loadFrame f s).inputs = s.inputs := rfl
@[simp] theorem loadFrame_trace : (loadFrame f s).trace = s.trace := rfl
@[simp] theorem loadFrame_responses : (loadFrame f s).responses = s.responses := rfl
@[simp] theorem loadFrame_results : (loadFrame f s).results = s.results := rfl
@[simp] theorem loadFrame_i2cCalls : (loadFrame f s).i2cCalls = s.i2cCalls := rfl
end LoadFrame

section UseSlot
variable (s : State)
@[simp] theorem useSlot_eng : (useSlot s).eng = s.eng := rfl
@[simp] theorem useSlot_tgt : (useSlot s).tgt = s.tgt := rfl
@[simp] theorem useSlot_client : (useSlot s).client = s.client := rfl
@[simp] theorem useSlot_response : (useSlot s).response = s.response := rfl
@[simp] theorem useSlot_inputs :
    (useSlot s).inputs = { s.inputs with slotFaults := s.inputs.slotFaults.tail } := rfl
@[simp] theorem useSlot_trace : (useSlot s).trace = s.trace := rfl
@[simp] theorem useSlot_responses : (useSlot s).responses = s.responses := rfl
@[simp] theorem useSlot_results : (useSlot s).results = s.results := rfl
@[simp] theorem useSlot_i2cCalls : (useSlot s).i2cCalls = s.i2cCalls := rfl
end UseSlot

section UseI2c
variable (s : State)
@[simp] theorem useI2c_eng : (useI2c s).eng = s.eng := rfl
@[simp] theorem useI2c_tgt : (useI2c s).tgt = s.tgt := rfl
@[simp] theorem useI2c_client : (useI2c s).client = s.client := rfl
@[simp] theorem useI2c_response : (useI2c s).response = s.response := rfl
@[simp] theorem useI2c_inputs : (useI2c s).inputs = { s.inputs with i2cFaults := s.inputs.i2cFaults.tail } := rfl
@[simp] theorem useI2c_trace : (useI2c s).trace = s.trace := rfl
@[simp] theorem useI2c_responses : (useI2c s).responses = s.responses := rfl
@[simp] theorem useI2c_results : (useI2c s).results = s.results := rfl
@[simp] theorem useI2c_i2cCalls : (useI2c s).i2cCalls = s.i2cCalls + 1 := rfl
end UseI2c

end Sys2Proof.Machine
end

