-- ==== Sys2Proof/Laws/Frame.lean ====
section
/-! SUPPORT. What one frame does, once: a two-byte command and a read, when their slots succeed and when one
fails. Everything else a frame step touches is in these states. -/

namespace Sys2Proof.Machine

/-- The next two slots do not fail: neither as the machine tests the first nor as it tests the second. -/
theorem State.SlotsOk.not_fails {s : State} (h : s.SlotsOk 2) (P : Params) :
    slotFailure P s = none ∧ slotFailure P (useSlot s) = none := by
  unfold State.SlotsOk at h
  rcases hl : s.inputs.slotFaults with _ | ⟨x, _ | ⟨y, l⟩⟩ <;> simp [hl] at h <;> simp [slotFailure, useSlot, hl, h]

/-- The initiator after a two-byte frame whose slots succeed. -/
def Engine.afterF2 (E : Engine) (c0 c1 : Byte) : Engine :=
  { E with cmd0 := c0, cmd1 := c1, len := 2, cap := 0, idx := 2, phase := .idle, cs := .high }

/-- The initiator after a one-byte frame with a reply, whose slots succeed. -/
def Engine.afterF1r (E : Engine) (c0 v : Byte) : Engine :=
  { E with cmd0 := c0, len := 1, cap := 1, idx := 1, phase := .idle, cs := .high, rx := v }

/-- The byte a read's window captures: what the target drives in slot 1 (R162). -/
def replyByte (P : Params) (c0 : Byte) (T : Target) : Byte := tgtDrives P (tgtSlot P c0 (tgtCsLow T))

/-- A two-byte frame whose slots succeed. -/
theorem sendFrame_f2 (P : Params) (c0 c1 : Byte) (s : State) (h0 : slotFailure P s = none)
    (h1 : slotFailure P (useSlot s) = none) :
    sendFrame P ⟨c0, c1, 2, 0⟩ s =
      { s with
        eng := s.eng.afterF2 c0 c1,
        tgt := targetWindow P [c0, c1] s.tgt,
        inputs := { s.inputs with slotFaults := s.inputs.slotFaults.tail.tail },
        trace := s.trace ++ [.csLow, .tx c0, .tx c1, .csHigh] } := by
  cases hc : P.shiftCanFail <;> rcases hl : s.inputs.slotFaults with _ | ⟨_ | x, _ | ⟨_ | y, l⟩⟩ <;>
    simp [slotFailure, useSlot, hl, hc] at h0 h1 <;>
    simp [sendFrame, frameSteps, frameStep, loadFrame, assertStep, driveCsLow, commandStep, releaseStep, driveCsHigh,
      slotFailure, useSlot, afterCommandByte, Engine.cmdAt, State.onEngine, State.onTarget, State.emit, targetWindow,
      tgtSlots, Engine.afterF2, hl, hc]

/-- A one-byte frame with a reply, whose slots succeed. -/
theorem sendFrame_f1r (P : Params) (c0 c1 : Byte) (s : State) (h0 : slotFailure P s = none)
    (h1 : slotFailure P (useSlot s) = none) :
    sendFrame P ⟨c0, c1, 1, 1⟩ s =
      { s with
        eng := s.eng.afterF1r c0 (replyByte P c0 s.tgt),
        tgt := targetWindow P [c0, P.rdFill] s.tgt,
        inputs := { s.inputs with slotFaults := s.inputs.slotFaults.tail.tail },
        trace := s.trace ++ [.csLow, .tx c0, .rx (replyByte P c0 s.tgt), .csHigh] } := by
  cases hc : P.shiftCanFail <;> rcases hl : s.inputs.slotFaults with _ | ⟨_ | x, _ | ⟨_ | y, l⟩⟩ <;>
    simp [slotFailure, useSlot, hl, hc] at h0 h1 <;>
    simp [sendFrame, frameSteps, frameStep, loadFrame, assertStep, driveCsLow, commandStep, replyStep, releaseStep,
      driveCsHigh, slotFailure, useSlot, afterCommandByte, Engine.cmdAt, State.onEngine, State.onTarget, State.emit,
      targetWindow, tgtSlots, Engine.afterF1r, replyByte, hl, hc]

/-- The initiator after a frame one of whose slots failed at index `i` (R131, R250). -/
def Engine.afterFail (E : Engine) (f : FrameReq) (i : Nat) : Engine :=
  { E with
    cmd0 := f.c0, cmd1 := if f.len = 2 then f.c1 else E.cmd1, len := f.len, cap := f.cap, idx := i, phase := .idle,
    stage := .idle, op := .none, cs := .high }

/-- The datum of a frame that is a `WRPTR` (R160). -/
def frameWriteData (f : FrameReq) : Option Byte :=
  if f.c0 = opWrptr && f.len = 2 then some f.c1 else none

/-- The target after a window that failed with the target in state `T` (R160). -/
def failedWindow (P : Params) (d : Option Byte) (T : Target) : Target := tgtCsHigh P (tgtXferFail P d T)

/-- A frame whose first slot fails. -/
theorem sendFrame_fail0 (P : Params) (f : FrameReq) (s : State) (hl : f.len = 1 ∨ f.len = 2)
    {r : FaultReport} (h : slotFailure P s = some r) :
    sendFrame P f s =
      { s with
        eng := s.eng.afterFail f 0,
        tgt := failedWindow P (frameWriteData f) (tgtCsLow s.tgt),
        response := some (.err (.transportError r)),
        inputs := { s.inputs with slotFaults := s.inputs.slotFaults.tail },
        trace := s.trace ++ [.csLow, .xferFail, .csHigh],
        responses := s.responses ++ [.err (.transportError r)] } := by
  simp only [slotFailure, List.headD_eq_head?_getD] at h
  rcases hl with hl | hl <;>
    simp [sendFrame, frameSteps, frameStep, loadFrame, assertStep, driveCsLow, commandStep, failSlot, driveCsHigh,
      slotFailure, useSlot, State.onEngine, State.onTarget, State.emit, State.raise, State.respond, failedWindow,
      Engine.afterFail, Engine.writeData, frameWriteData, hl, h]

theorem slotFaults_of_fails {P : Params} {s : State} {r : FaultReport} (h : slotFailure P (useSlot s) = some r) :
    ∃ b l, s.inputs.slotFaults = b :: some r :: l ∧ P.shiftCanFail = true := by
  simp only [slotFailure, useSlot, Option.filter_eq_some_iff] at h
  obtain ⟨h, hc⟩ := h
  cases hl : s.inputs.slotFaults with
  | nil => simp [hl] at h
  | cons b l =>
    cases l with
    | nil => simp [hl] at h
    | cons c l => exact ⟨b, l, by simpa [hl] using h, hc⟩

/-- A two-byte frame whose second slot fails. -/
theorem sendFrame_f2_fail1 (P : Params) (c0 c1 : Byte) (s : State) (h0 : slotFailure P s = none)
    {r : FaultReport} (h1 : slotFailure P (useSlot s) = some r) :
    sendFrame P ⟨c0, c1, 2, 0⟩ s =
      { s with
        eng := s.eng.afterFail ⟨c0, c1, 2, 0⟩ 1,
        tgt := failedWindow P (frameWriteData ⟨c0, c1, 2, 0⟩) (tgtSlot P c0 (tgtCsLow s.tgt)),
        response := some (.err (.transportError r)),
        inputs := { s.inputs with slotFaults := s.inputs.slotFaults.tail.tail },
        trace := s.trace ++ [.csLow, .tx c0, .xferFail, .csHigh],
        responses := s.responses ++ [.err (.transportError r)] } := by
  obtain ⟨b, l, hl, hc⟩ := slotFaults_of_fails h1
  have hb : b = none := by cases b <;> simp [slotFailure, hl, hc] at h0 ⊢
  subst hb
  simp [sendFrame, frameSteps, frameStep, loadFrame, assertStep, driveCsLow, commandStep, failSlot, driveCsHigh,
    slotFailure, useSlot, afterCommandByte, Engine.cmdAt, State.onEngine, State.onTarget, State.emit, State.raise,
    State.respond, failedWindow, Engine.afterFail, Engine.writeData, frameWriteData, Option.filter, hl, hc]

/-- A read whose reply slot fails. -/
theorem sendFrame_f1r_fail1 (P : Params) (c0 c1 : Byte) (s : State) (h0 : slotFailure P s = none)
    {r : FaultReport} (h1 : slotFailure P (useSlot s) = some r) :
    sendFrame P ⟨c0, c1, 1, 1⟩ s =
      { s with
        eng := s.eng.afterFail ⟨c0, c1, 1, 1⟩ 1,
        tgt := failedWindow P none (tgtSlot P c0 (tgtCsLow s.tgt)),
        response := some (.err (.transportError r)),
        inputs := { s.inputs with slotFaults := s.inputs.slotFaults.tail.tail },
        trace := s.trace ++ [.csLow, .tx c0, .xferFail, .csHigh],
        responses := s.responses ++ [.err (.transportError r)] } := by
  obtain ⟨b, l, hl, hc⟩ := slotFaults_of_fails h1
  have hb : b = none := by cases b <;> simp [slotFailure, hl, hc] at h0 ⊢
  subst hb
  simp [sendFrame, frameSteps, frameStep, loadFrame, assertStep, driveCsLow, commandStep, replyStep, failSlot,
    driveCsHigh, slotFailure, useSlot, afterCommandByte, Engine.cmdAt, State.onEngine, State.onTarget, State.emit,
    State.raise, State.respond, failedWindow, Engine.afterFail, Engine.writeData, Option.filter, hl, hc]

/-- A failed window is refused at the target, from whatever state (R131, R160). -/
theorem failedWindow_refused (P : Params) (d : Option Byte) (T : Target) : (failedWindow P d T).Refused := by
  unfold failedWindow tgtXferFail
  split
  · exact ⟨rfl, rfl, rfl, rfl⟩
  · split <;> exact ⟨rfl, rfl, rfl, rfl⟩

/-- A failed window that is no write leaves the register file alone. -/
theorem failedWindow_none_rf (P : Params) (T : Target) : (failedWindow P none T).rf = T.rf := rfl

/-- A failed write leaves every register alone but the pointed one (R160, R252). -/
theorem failedWindow_some_read_other (P : Params) (d : Byte) (T : Target) {a : Byte} (h : a ≠ T.ptr) :
    (failedWindow P (some d) T).rf.read P a = T.rf.read P a := by
  unfold failedWindow
  rw [tgtCsHigh_rf]
  unfold tgtXferFail
  simp only
  split
  · exact RegFile.read_write_other P T.rf h _
  · rfl

/-- The first slot of a window writes no register and leaves the pointer alone. -/
theorem tgtSlot_first (P : Params) (b : Byte) (T : Target) :
    (tgtSlot P b (tgtCsLow T)).rf = T.rf ∧ (tgtSlot P b (tgtCsLow T)).ptr = T.ptr := ⟨rfl, rfl⟩

/-- What no step of the frame machine touches: the configuration registers, the request latches, the reset pin,
and everything outside the engine, the target, the trace and the response channel. -/
def SameOutside (s t : State) : Prop :=
  t.eng.transport = s.eng.transport ∧ t.eng.i2cAddress = s.eng.i2cAddress ∧
    t.eng.chipSelectPin = s.eng.chipSelectPin ∧ t.eng.resetPin = s.eng.resetPin ∧ t.eng.addr = s.eng.addr ∧
    t.eng.data = s.eng.data ∧ t.eng.rst = s.eng.rst ∧ t.client = s.client ∧ t.inputs.ops = s.inputs.ops ∧
    t.inputs.i2cFaults = s.inputs.i2cFaults ∧ t.inputs.envChanges = s.inputs.envChanges ∧ t.results = s.results ∧
    t.i2cCalls = s.i2cCalls

theorem SameOutside.rfl (s : State) : SameOutside s s := by simp [SameOutside]

theorem SameOutside.trans {s t u : State} (h : SameOutside s t) (k : SameOutside t u) : SameOutside s u := by
  simp only [SameOutside] at *
  simp [h, k]

theorem frameStep_sameOutside (P : Params) (s : State) : SameOutside s (frameStep P s) := by
  unfold frameStep
  split
  · exact SameOutside.rfl s
  · simp [SameOutside, assertStep, driveCsLow]
  · unfold commandStep
    split <;> simp [SameOutside, failSlot, driveCsHigh, afterCommandByte]
  · unfold replyStep
    split <;> simp [SameOutside, failSlot, driveCsHigh]
  · simp [SameOutside, releaseStep, driveCsHigh]

theorem frameSteps_sameOutside (P : Params) (n : Nat) (s : State) : SameOutside s (frameSteps P n s) := by
  induction n generalizing s with
  | zero => exact SameOutside.rfl s
  | succ n ih => exact (frameStep_sameOutside P s).trans (ih _)

/-- A whole frame touches nothing outside the engine's frame state, the target, the trace and the response. -/
theorem sendFrame_sameOutside (P : Params) (f : FrameReq) (s : State) : SameOutside s (sendFrame P f s) :=
  SameOutside.trans (by simp [SameOutside]) (frameSteps_sameOutside P 4 (loadFrame f s))

/-- The slots of a frame: the first fails, or only the second, or neither. -/
theorem slots_cases (P : Params) (s : State) :
    (∃ r, slotFailure P s = some r) ∨ (slotFailure P s = none ∧ ∃ r, slotFailure P (useSlot s) = some r) ∨
      (slotFailure P s = none ∧ slotFailure P (useSlot s) = none) := by
  cases slotFailure P s <;> cases slotFailure P (useSlot s) <;> simp

/-- Only an accepted write changes the register file in a window of two slots. -/
theorem window_rf {P : Params} {b : Byte} (c : Byte) {T : Target} (h : b ≠ opWrptr) :
    (targetWindow P [b, c] T).rf = T.rf := by
  simp only [targetWindow, tgtCsHigh_rf, tgtSlots]
  show (slotEffect P c (tgtSlot P b (tgtCsLow T))).rf = T.rf
  have hps : (tgtSlot P b (tgtCsLow T)).ps = dispatchOpcode T b := rfl
  have hd : dispatchOpcode T b ≠ .operand .wrptr := by
    unfold dispatchOpcode
    simp only [h, decide_false, Bool.false_and, Bool.false_eq_true, if_false]
    split_ifs <;> simp
  unfold slotEffect
  rw [hps]
  split <;> first | rfl | exact absurd ‹_› hd

/-- A window of two slots changes no register but the pointed one (R64). -/
theorem window_read_other (P : Params) (b c : Byte) {T : Target} {a : Byte} (h : a ≠ T.ptr) :
    (targetWindow P [b, c] T).rf.read P a = T.rf.read P a := by
  simp only [targetWindow, tgtCsHigh_rf, tgtSlots]
  show (slotEffect P c (tgtSlot P b (tgtCsLow T))).rf.read P a = T.rf.read P a
  unfold slotEffect
  split <;> try rfl
  exact RegFile.read_write_other P T.rf h _

end Sys2Proof.Machine
end

