-- ==== Sys2Proof/Laws/PerInstr.lean ====
section
/-! SUPPORT. Statements made per instruction. TwoSlots: a command is well-formed, its encoding has the command
bytes of its format, and its window has two slots (30_encoding R90, R95, R96). -/

namespace Sys2Proof.Laws.TwoSlots

/-- The command is well-formed, is encoded in its format's command bytes, and takes two slots. -/
def Statement (i : Instr) : Prop :=
  i.wellFormed = true ∧ (encode i).length = i.opcode.format.commandBytes ∧
    i.opcode.format.commandBytes + i.opcode.format.replyBytes = 2

theorem rstif : Statement .rstif := by unfold Statement; decide

theorem setptr (addr : Byte) : Statement (.setptr addr) :=
  ⟨by simp [Instr.wellFormed, Instr.frameReq, FrameReq.wellFormed, FrameReq.twoSlots, FrameReq.isCommand, opSetptr],
    rfl, rfl⟩

theorem wrptr (data : Byte) : Statement (.wrptr data) :=
  ⟨by simp [Instr.wellFormed, Instr.frameReq, FrameReq.wellFormed, FrameReq.twoSlots, FrameReq.isCommand, opWrptr],
    rfl, rfl⟩

theorem rdptr : Statement .rdptr := by unfold Statement; decide

end Sys2Proof.Laws.TwoSlots
end

