-- ==== Sys2Proof/Laws/Step.lean ====
section
/-! SUPPORT. What a step can do, once: the moves of the stages, and the shape of every step; and what the end of a
step leaves alone. -/

namespace Sys2Proof.Machine

/-- The moves of the stages that send no frame (42 R190 to R201, 70 R282). -/
inductive StageMove (P : Params) (s : State) : State → Prop
  /-- Nothing is asked. -/
  | wait : s.eng.stage = .idle → s.client = .idle → s.inputs.ops = [] → StageMove P s s
  /-- A request is accepted. -/
  | ask (ops : List ClientOp) (q : Request) (c : ClientTask) : s.eng.stage = .idle → c ≠ .idle → q.pinsOk = true →
      StageMove P s (accept P q { s with client := c, inputs := { s.inputs with ops := ops } })
  /-- A client operation ends. -/
  | done (ops : List ClientOp) (r : Response) : s.eng.stage = .idle →
      StageMove P s
        { s with
          client := .idle, response := none, results := s.results ++ [r], inputs := { s.inputs with ops := ops } }
  | resetHigh : s.eng.stage = .pins → StageMove P s (resetHigh P s)
  | resetHold : s.eng.stage = .rstHigh → StageMove P s (resetHold P s)
  | resetLow : s.eng.stage = .rstHold → StageMove P s (resetLow s)
  | afterResetSpi : s.eng.stage = .rstLow → s.eng.op = .initSpi → StageMove P s (afterResetSpi P s)
  | afterResetI2c : s.eng.stage = .rstLow → s.eng.op = .initI2c → StageMove P s (afterResetI2c P s)
  | i2cRead : s.eng.stage = .i2c → s.eng.op = .rd → StageMove P s (i2cReadStep P s)
  | i2cWrite : s.eng.stage = .i2c → s.eng.op = .wr → StageMove P s (i2cWriteStep s)

theorem clientStart_asks {P : Params} {op : ClientOp} {q : Request} {c : ClientTask}
    (h : clientStart P op = .ask q c) : c ≠ .idle := by
  rintro rfl
  unfold clientStart at h
  split at h <;> (try split at h) <;> simp at h

theorem clientContinue_asks {P : Params} {k : ClientTask} {r : Response} {q : Request} {c : ClientTask}
    (h : clientContinue P k r = .ask q c) : c ≠ .idle := by
  rintro rfl
  unfold clientContinue at h
  split at h <;> (try unfold configureMove at h) <;> (try split at h) <;> simp at h

/-- The requests made on a response are register requests, which hand over no pins. -/
theorem clientContinue_pinsOk {P : Params} {k : ClientTask} {r : Response} {q : Request} {c : ClientTask}
    (h : clientContinue P k r = .ask q c) : q.pinsOk = true := by
  unfold clientContinue at h
  split at h <;> (try unfold configureMove at h) <;> (try split at h) <;> simp at h <;> (obtain ⟨rfl, _⟩ := h; rfl)

/-- Everything the client layer's move can do. -/
theorem clientMove_cases {P : Params} {m : ClientMove} {s t : State} (h : clientMove P m s = .next t) :
    (∃ q c, m = .ask q c ∧ q.pinsOk = true ∧ t = accept P q { s with client := c }) ∨
      ∃ r, m = .done r ∧ t = { s with client := .idle, response := none, results := s.results ++ [r] } := by
  unfold clientMove at h
  split at h
  · split at h <;> cases h
    exact .inl ⟨_, _, rfl, ‹_›, rfl⟩
  · cases h
    exact .inr ⟨_, rfl, rfl⟩
  · cases h

theorem requesterStep_cases {P : Params} {s t : State} (hs : s.eng.stage = .idle)
    (h : requesterStep P s = .next t) : StageMove P s t := by
  unfold requesterStep at h
  split at h
  · cases h
    exact .wait hs ‹_› ‹_›
  · rename_i op rest _ _
    obtain ⟨q, c, hc, hq, rfl⟩ | ⟨r, -, rfl⟩ := clientMove_cases h
    · exact .ask rest q c hs (clientStart_asks hc) hq
    · exact .done rest r hs
  · obtain ⟨q, c, hc, hq, rfl⟩ | ⟨r, -, rfl⟩ := clientMove_cases h
    · exact .ask s.inputs.ops q c hs (clientContinue_asks hc) hq
    · exact .done s.inputs.ops r hs
  · cases h

/-- Everything a stage can do. -/
theorem stageStep_cases {P : Params} {s t : State} (h : stageStep P s = .next t) : StageMove P s t := by
  unfold stageStep at h
  split at h
  · exact requesterStep_cases ‹_› h
  · cases h; exact .resetHigh ‹_›
  · cases h; exact .resetHold ‹_›
  · cases h; exact .resetLow ‹_›
  · cases h; exact .afterResetSpi ‹_› ‹_›
  · cases h; exact .afterResetI2c ‹_› ‹_›
  · cases h
  · cases h; exact .i2cRead ‹_› ‹_›
  · cases h; exact .i2cWrite ‹_› ‹_›
  · cases h
  · cases h
  · cases h
  · cases h

/-- Everything a step at the level of wire events can do; `stageStep_cases` says what a stage can do. -/
theorem eventStep_cases {P : Params} {s t : State} (h : eventStep P s = .next t) :
    ∃ u, t = settle P u ∧ (s.eng.phase = .idle ∧ stageStep P s = .next u ∨ s.eng.phase ≠ .idle ∧ u = frameStep P s) := by
  unfold eventStep settleOutcome at h
  split at h
  · rename_i u hc
    cases h
    refine ⟨u, rfl, ?_⟩
    unfold eventCore at hc
    split at hc
    · exact .inl ⟨‹_›, hc⟩
    · cases hc; exact .inr ⟨by simp [*], rfl⟩
    · split at hc
      · cases hc; exact .inr ⟨by simp [*], rfl⟩
      · cases hc
    · cases hc; exact .inr ⟨by simp [*], rfl⟩
    · cases hc; exact .inr ⟨by simp [*], rfl⟩
  · cases h
  · cases h

/-- Everything a step can do: a whole window, a stage's move, or one event of a frame already begun. -/
theorem stepWith_cases {P : Params} {s t : State} (h : stepWith P s = .next t) :
    ∃ u, t = settle P u ∧
      ((∃ i, fetch s = some i ∧ u = sendFrame P i.frameReq s) ∨
        fetch s = none ∧ s.eng.phase = .idle ∧ stageStep P s = .next u ∨
        fetch s = none ∧ s.eng.phase ≠ .idle ∧ u = frameStep P s) := by
  unfold stepWith at h
  split at h
  · cases h
    exact ⟨_, rfl, .inl ⟨_, ‹_›, rfl⟩⟩
  · obtain ⟨u, hu, hk⟩ := eventStep_cases h
    exact ⟨u, hu, .inr (hk.imp (fun k => ⟨‹_›, k⟩) (fun k => ⟨‹_›, k⟩))⟩

section EnvTurn
variable (P : Params) (s : State)
@[simp] theorem envTurn_eng : (envTurn P s).eng = s.eng := by unfold envTurn; split <;> rfl
@[simp] theorem envTurn_client : (envTurn P s).client = s.client := by unfold envTurn; split <;> rfl
@[simp] theorem envTurn_response : (envTurn P s).response = s.response := by unfold envTurn; split <;> rfl
@[simp] theorem envTurn_trace : (envTurn P s).trace = s.trace := by unfold envTurn; split <;> rfl
@[simp] theorem envTurn_responses : (envTurn P s).responses = s.responses := by unfold envTurn; split <;> rfl
@[simp] theorem envTurn_results : (envTurn P s).results = s.results := by unfold envTurn; split <;> rfl
@[simp] theorem envTurn_i2cCalls : (envTurn P s).i2cCalls = s.i2cCalls := by unfold envTurn; split <;> rfl
@[simp] theorem envTurn_ops : (envTurn P s).inputs.ops = s.inputs.ops := by unfold envTurn; split <;> rfl
@[simp] theorem envTurn_slotFaults : (envTurn P s).inputs.slotFaults = s.inputs.slotFaults := by
  unfold envTurn; split <;> rfl
@[simp] theorem envTurn_i2cFaults : (envTurn P s).inputs.i2cFaults = s.inputs.i2cFaults := by
  unfold envTurn; split <;> rfl

/-- The chip's turn changes the register file only (R44). -/
theorem envTurn_tgt : ∃ rf, (envTurn P s).tgt = { s.tgt with rf := rf } := by
  unfold envTurn
  split
  · exact ⟨s.tgt.rf, rfl⟩
  · exact ⟨_, rfl⟩

/-- The chip's turn keeps the canonical form of the register file. -/
theorem envTurn_wf {P : Params} {s : State} (h : s.tgt.rf.wf P) : (envTurn P s).tgt.rf.wf P := by
  unfold envTurn
  split
  · exact h
  · exact applyChanges_wf h _

/-- The chip's turn leaves every register outside `ENV_WRITES` alone (R44). -/
theorem envTurn_read_other {P : Params} {s : State} {a : Byte} (h : P.envWrites a = false) :
    (envTurn P s).tgt.rf.read P a = s.tgt.rf.read P a := by
  unfold envTurn
  split
  · rfl
  · exact applyChanges_read_other h _ _
end EnvTurn

section Sequencer
variable (s : State)
@[simp] theorem sequencerMove_tgt : (sequencerMove s).tgt = s.tgt := by unfold sequencerMove; split <;> rfl
@[simp] theorem sequencerMove_client : (sequencerMove s).client = s.client := by
  unfold sequencerMove; split <;> rfl
@[simp] theorem sequencerMove_inputs : (sequencerMove s).inputs = s.inputs := by
  unfold sequencerMove; split <;> rfl
@[simp] theorem sequencerMove_trace : (sequencerMove s).trace = s.trace := by unfold sequencerMove; split <;> rfl
@[simp] theorem sequencerMove_results : (sequencerMove s).results = s.results := by
  unfold sequencerMove; split <;> rfl
@[simp] theorem sequencerMove_i2cCalls : (sequencerMove s).i2cCalls = s.i2cCalls := by
  unfold sequencerMove; split <;> rfl

/-- The sequencer leaves the Device Handle, the latched request, the received byte and the pins alone (R194). -/
theorem sequencerMove_eng :
    (sequencerMove s).eng.transport = s.eng.transport ∧ (sequencerMove s).eng.i2cAddress = s.eng.i2cAddress ∧
      (sequencerMove s).eng.chipSelectPin = s.eng.chipSelectPin ∧
      (sequencerMove s).eng.resetPin = s.eng.resetPin ∧ (sequencerMove s).eng.addr = s.eng.addr ∧
      (sequencerMove s).eng.data = s.eng.data ∧ (sequencerMove s).eng.rx = s.eng.rx ∧
      (sequencerMove s).eng.idx = s.eng.idx ∧ (sequencerMove s).eng.cs = s.eng.cs ∧
      (sequencerMove s).eng.rst = s.eng.rst := by
  unfold sequencerMove
  split <;> simp
end Sequencer

end Sys2Proof.Machine
end

