-- ==== Sys2Proof/Laws/Target.lean ====
section
/-! SUPPORT. What the target can do, once: the dispatch on an op-code, the end of a window, and a whole window by
the position its parser ends in (41_wire_commands R156 to R160). -/

namespace Sys2Proof.Machine

/-- The dispatch on the op-code of slot 0, case by case (R157). -/
theorem dispatchOpcode_cases (T : Target) (b : Byte) :
    (b = 0x7A ∧ dispatchOpcode T b = .operand .rstif) ∨
      (T.known = true ∧ b = 0x7D ∧ dispatchOpcode T b = .operand .setptr) ∨
      (T.known = true ∧ T.ptrValid = true ∧ b = 0x7E ∧ dispatchOpcode T b = .operand .wrptr) ∨
      (T.known = true ∧ T.ptrValid = true ∧ b = 0x7F ∧ dispatchOpcode T b = .reply) ∨
      (dispatchOpcode T b = .bad ∧ b ≠ 0x7A ∧ ¬(T.known = true ∧ b = 0x7D) ∧
        ¬(T.known = true ∧ T.ptrValid = true ∧ b = 0x7E) ∧ ¬(T.known = true ∧ T.ptrValid = true ∧ b = 0x7F)) := by
  unfold dispatchOpcode opRstif opSetptr opWrptr opRdptr
  by_cases h1 : b = 0x7A
  · simp [h1]
  by_cases h2 : b = 0x7D
  · cases T.known <;> simp [h2]
  by_cases h3 : b = 0x7E
  · cases T.known <;> cases T.ptrValid <;> simp [h3]
  by_cases h4 : b = 0x7F
  · cases T.known <;> cases T.ptrValid <;> simp [h4]
  simp at h1 h2 h3 h4
  simp [h1, h2, h3, h4]

/-- A refused position is kept by every further slot (R158, R159), and no register changes. -/
theorem tgtSlot_bad (P : Params) (b : Byte) {T : Target} (h : T.ps = .bad) :
    (tgtSlot P b T).ps = .bad ∧ (tgtSlot P b T).rf = T.rf := by
  simp [tgtSlot, slotEffect, h, nextDraw]

theorem tgtSlots_bad (P : Params) (m : List Byte) {T : Target} (h : T.ps = .bad) : (tgtSlots P m T).ps = .bad := by
  induction m generalizing T with
  | nil => exact h
  | cons b m ih => exact ih (tgtSlot_bad P b h).1

/-- A slot after a complete command spoils the window (R159). -/
theorem tgtSlots_done (P : Params) (b : Byte) (m : List Byte) {T : Target} {op : Opcode} (h : T.ps = .done op) :
    (tgtSlots P (b :: m) T).ps = .bad := by
  refine tgtSlots_bad P m ?_
  show (slotEffect P b T).ps = .bad
  unfold slotEffect
  rw [h]

/-- No slot changes whether the parser is known, or the refusal mark. -/
theorem tgtSlot_known_mark (P : Params) (b : Byte) (T : Target) :
    (tgtSlot P b T).known = T.known ∧ (tgtSlot P b T).mark = T.mark := by
  show (slotEffect P b T).known = T.known ∧ (slotEffect P b T).mark = T.mark
  unfold slotEffect undoDraw
  split <;> try exact ⟨rfl, rfl⟩
  split <;> exact ⟨rfl, rfl⟩

theorem tgtSlots_known_mark (P : Params) (m : List Byte) (T : Target) :
    (tgtSlots P m T).known = T.known ∧ (tgtSlots P m T).mark = T.mark := by
  induction m generalizing T with
  | nil => exact ⟨rfl, rfl⟩
  | cons b m ih =>
    obtain ⟨h, k⟩ := tgtSlot_known_mark P b T
    exact ⟨(ih _).1.trans h, (ih _).2.trans k⟩

/-- After `CsHigh` no window is open. -/
theorem tgtCsHigh_idle (P : Params) (T : Target) : (tgtCsHigh P T).ps = .idle := by
  unfold tgtCsHigh
  split <;> first | assumption | rfl

/-- A `CsHigh` with no window open has no effect (R161). -/
theorem tgtCsHigh_of_idle (P : Params) {T : Target} (h : T.ps = .idle) : tgtCsHigh P T = T := by
  unfold tgtCsHigh
  rw [h]

/-- A window that ends in no complete command is refused (R159, R160). -/
theorem tgtCsHigh_refused (P : Params) {T : Target} (h : T.ps ≠ .idle) (hd : ∀ op, T.ps ≠ .done op) :
    (tgtCsHigh P T).Refused := by
  unfold tgtCsHigh
  split <;> first | exact ⟨rfl, rfl, rfl, rfl⟩ | simp_all

/-- A window that ends in a complete command is not refused. -/
theorem tgtCsHigh_done (P : Params) {T : Target} {op : Opcode} (h : T.ps = .done op) :
    (tgtCsHigh P T).mark = T.mark ∧ (tgtCsHigh P T).known = (if op = .rstif then true else T.known) ∧
      (tgtCsHigh P T).ptrValid = (if op = .rstif then false else T.ptrValid) := by
  cases op <;> simp [tgtCsHigh, h, nextDraw, closeWindow, becomeKnown, losePtr]

/-- No window's end clears the refusal mark (R160). -/
theorem tgtCsHigh_mark (P : Params) {T : Target} (h : T.mark = true) : (tgtCsHigh P T).mark = true := by
  unfold tgtCsHigh
  split <;> first | exact h | rfl

theorem tgtCsHigh_hold (P : Params) (T : Target) : (tgtCsHigh P T).hold = T.hold := by
  unfold tgtCsHigh
  split <;> rfl

theorem tgtXferFail_mark (P : Params) (d : Option Byte) (T : Target) : (tgtXferFail P d T).mark = T.mark := by
  unfold tgtXferFail
  split
  · rfl
  · split <;> rfl

/-- A whole window, by the position its parser ends in: one of the four commands, complete and with its
precondition, or no complete command (R155). -/
theorem window_cases (P : Params) (T : Target) (m : List Byte) :
    (m = [0x7A, 0x7A] ∧ (tgtSlots P m (tgtCsLow T)).ps = .done .rstif) ∨
      (T.known = true ∧ (∃ a, m = [0x7D, a]) ∧ (tgtSlots P m (tgtCsLow T)).ps = .done .setptr) ∨
      (T.known = true ∧ T.ptrValid = true ∧ (∃ a, m = [0x7E, a]) ∧
        (tgtSlots P m (tgtCsLow T)).ps = .done .wrptr) ∨
      (T.known = true ∧ T.ptrValid = true ∧ (∃ a, m = [0x7F, a]) ∧
        (tgtSlots P m (tgtCsLow T)).ps = .done .rdptr) ∨
      (m ≠ [0x7A, 0x7A] ∧ ¬(T.known = true ∧ ∃ a, m = [0x7D, a]) ∧
        ¬(T.known = true ∧ T.ptrValid = true ∧ ∃ a, m = [0x7E, a]) ∧
        ¬(T.known = true ∧ T.ptrValid = true ∧ ∃ a, m = [0x7F, a]) ∧
        (tgtSlots P m (tgtCsLow T)).ps ≠ .idle ∧ ∀ op, (tgtSlots P m (tgtCsLow T)).ps ≠ .done op) := by
  match m with
  | [] => right; right; right; right; simp [tgtSlots, tgtCsLow]
  | [b] =>
    right; right; right; right
    have : (tgtSlots P [b] (tgtCsLow T)).ps = dispatchOpcode T b := rfl
    rw [this]
    rcases dispatchOpcode_cases T b with ⟨_, h⟩ | ⟨_, _, h⟩ | ⟨_, _, _, h⟩ | ⟨_, _, _, h⟩ | ⟨h, _⟩ <;> rw [h] <;> simp
  | b :: c :: m =>
    have h1 : (tgtSlot P b (tgtCsLow T)).ps = dispatchOpcode T b := rfl
    have long : ∀ U op, U.ps = .done op → m ≠ [] → (tgtSlots P m U).ps = .bad := by
      intro U op h hm
      cases m with
      | nil => simp at hm
      | cons x m => exact tgtSlots_done P x m h
    show _ ∨ _ ∨ _ ∨ _ ∨ _
    simp only [tgtSlots]
    rcases dispatchOpcode_cases T b with h | h | h | h | h
    · by_cases hc : c = 122#8
      · have h2 : (tgtSlot P c (tgtSlot P b (tgtCsLow T))).ps = .done .rstif := by
          show (slotEffect P c _).ps = _
          unfold slotEffect; rw [h1, h.2]; simp [hc, opRstif]
        by_cases hm : m = []
        · left; subst hm; exact ⟨by simp [h.1, hc], h2⟩
        · right; right; right; right
          rw [long _ _ h2 hm]
          simp [h.1, hc, hm]
      · have h2 : (tgtSlot P c (tgtSlot P b (tgtCsLow T))).ps = .bad := by
          show (slotEffect P c _).ps = _
          unfold slotEffect; rw [h1, h.2]; simp [hc, opRstif]
        right; right; right; right
        rw [tgtSlots_bad _ _ h2]
        simp [h.1, hc]
    · have h2 : (tgtSlot P c (tgtSlot P b (tgtCsLow T))).ps = .done .setptr := by
          show (slotEffect P c _).ps = _
          unfold slotEffect; rw [h1, h.2.2]
      by_cases hm : m = []
      · right; left; subst hm; exact ⟨h.1, ⟨c, by simp [h.2.1]⟩, h2⟩
      · right; right; right; right
        rw [long _ _ h2 hm]
        simp [hm]
    · have h2 : (tgtSlot P c (tgtSlot P b (tgtCsLow T))).ps = .done .wrptr := by
          show (slotEffect P c _).ps = _
          unfold slotEffect; rw [h1, h.2.2.2]
      by_cases hm : m = []
      · right; right; left; subst hm; exact ⟨h.1, h.2.1, ⟨c, by simp [h.2.2.1]⟩, h2⟩
      · right; right; right; right
        rw [long _ _ h2 hm]
        simp [hm]
    · have h2 : (tgtSlot P c (tgtSlot P b (tgtCsLow T))).ps = .done .rdptr := by
          show (slotEffect P c _).ps = _
          unfold slotEffect; rw [h1, h.2.2.2]
      by_cases hm : m = []
      · right; right; right; left; subst hm; exact ⟨h.1, h.2.1, ⟨c, by simp [h.2.2.1]⟩, h2⟩
      · right; right; right; right
        rw [long _ _ h2 hm]
        simp [hm]
    · have h2 : (tgtSlot P c (tgtSlot P b (tgtCsLow T))).ps = .bad := (tgtSlot_bad P c (h1.trans h.1)).1
      right; right; right; right
      rw [tgtSlots_bad _ _ h2]
      obtain ⟨_, h3, h4, h5, h6⟩ := h
      simp only [List.cons.injEq, ne_eq, not_and]
      refine ⟨fun e => absurd e h3, ?_, ?_, ?_, by simp, by simp⟩
      · rintro hk ⟨a, e, _⟩; exact h4 ⟨hk, e⟩
      · rintro hk hv ⟨a, e, _⟩; exact h5 ⟨hk, hv, e⟩
      · rintro hk hv ⟨a, e, _⟩; exact h6 ⟨hk, hv, e⟩

/-- A read's window writes no `T.HOLD` (R40). -/
theorem window_hold_rdptr (P : Params) (c : Byte) (T : Target) :
    (targetWindow P [opRdptr, c] T).hold = T.hold := by
  simp only [targetWindow, tgtCsHigh_hold, tgtSlots]
  show (slotEffect P c (tgtSlot P opRdptr (tgtCsLow T))).hold = T.hold
  have hps : (tgtSlot P opRdptr (tgtCsLow T)).ps = dispatchOpcode T opRdptr := rfl
  have hd : dispatchOpcode T opRdptr = .bad ∨ dispatchOpcode T opRdptr = .reply := by
    unfold dispatchOpcode
    cases T.known <;> cases T.ptrValid <;> simp [opRdptr, opRstif, opSetptr, opWrptr]
  unfold slotEffect
  rw [hps]
  rcases hd with hd | hd <;> rw [hd] <;> rfl

/-- Everything a command's frame can do to the target: a window whose first slot fails, one whose second slot
fails, or the whole window (R129, R131). -/
theorem sendFrame_tgt (P : Params) (i : Instr) (s : State) :
    (sendFrame P i.frameReq s).tgt = failedWindow P (frameWriteData i.frameReq) (tgtCsLow s.tgt) ∨
      (sendFrame P i.frameReq s).tgt =
        failedWindow P (frameWriteData i.frameReq) (tgtSlot P i.frameReq.c0 (tgtCsLow s.tgt)) ∨
      ∃ c, (sendFrame P i.frameReq s).tgt = targetWindow P [i.frameReq.c0, c] s.tgt := by
  rcases slots_cases P s with ⟨r, h⟩ | ⟨h0, r, h1⟩ | ⟨h0, h1⟩
  · left
    rw [sendFrame_fail0 P i.frameReq s (by cases i <;> simp [Instr.frameReq]) h]
  · right; left
    cases i <;> simp only [Instr.frameReq] <;>
      first | rw [sendFrame_f2_fail1 P _ _ s h0 h1] | rw [sendFrame_f1r_fail1 P _ _ s h0 h1]; rfl
  · right; right
    cases i with
    | rstif => exact ⟨opRstif, congrArg State.tgt (sendFrame_f2 P _ _ s h0 h1)⟩
    | setptr b => exact ⟨b, congrArg State.tgt (sendFrame_f2 P _ _ s h0 h1)⟩
    | wrptr d => exact ⟨d, congrArg State.tgt (sendFrame_f2 P _ _ s h0 h1)⟩
    | rdptr => exact ⟨P.rdFill, congrArg State.tgt (sendFrame_f1r P _ _ s h0 h1)⟩

/-- A command's frame changes no register but the pointed one, and that one only if it is a `WRPTR` (R151 to R154,
R160). -/
theorem sendFrame_read_other {P : Params} {i : Instr} {s : State} {a : Byte}
    (h : (∃ d, i = .wrptr d) → a ≠ s.tgt.ptr) : (sendFrame P i.frameReq s).tgt.rf.read P a = s.tgt.rf.read P a := by
  have keep : ∀ b c, b ≠ opWrptr → (targetWindow P [b, c] s.tgt).rf.read P a = s.tgt.rf.read P a := fun _ c hb => by
    rw [window_rf c hb]
  cases i with
  | wrptr d =>
    have h := h ⟨d, rfl⟩
    rcases sendFrame_tgt P (.wrptr d) s with k | k | ⟨c, k⟩ <;> rw [k]
    · exact failedWindow_some_read_other P d (tgtCsLow s.tgt) h
    · exact failedWindow_some_read_other P d (tgtSlot P opWrptr (tgtCsLow s.tgt)) h
    · exact window_read_other P _ c h
  | rstif => rcases sendFrame_tgt P .rstif s with k | k | ⟨c, k⟩ <;> rw [k] <;> first | rfl | exact keep _ c (by decide)
  | setptr b =>
    rcases sendFrame_tgt P (.setptr b) s with k | k | ⟨c, k⟩ <;> rw [k] <;>
      first | rfl | exact keep opSetptr c (by decide)
  | rdptr => rcases sendFrame_tgt P .rdptr s with k | k | ⟨c, k⟩ <;> rw [k] <;> first | rfl | exact keep _ c (by decide)

/-- A window that makes the parser known is an `RSTIF` (R160). -/
theorem window_makes_known {P : Params} {T : Target} {m : List Byte} (h : T.known = false)
    (hk : (targetWindow P m T).known = true) : m = [0x7A, 0x7A] := by
  rcases window_cases P T m with ⟨hm, _⟩ | ⟨h1, _⟩ | ⟨h1, _⟩ | ⟨h1, _⟩ | ⟨_, _, _, _, hi, hd⟩
  · exact hm
  · simp [h] at h1
  · simp [h] at h1
  · simp [h] at h1
  · simp [targetWindow, (tgtCsHigh_refused P hi hd).1] at hk

/-- A command whose frame makes the parser known is `RSTIF` (R160). -/
theorem sendFrame_makes_known {P : Params} {i : Instr} {s : State} (h : s.tgt.known = false)
    (hk : (sendFrame P i.frameReq s).tgt.known = true) : i = .rstif := by
  rcases sendFrame_tgt P i s with k | k | ⟨c, k⟩ <;> rw [k] at hk
  · simp [(failedWindow_refused P _ _).1] at hk
  · simp [(failedWindow_refused P _ _).1] at hk
  · have := window_makes_known h hk
    cases i <;> simp_all [Instr.frameReq, opSetptr, opWrptr, opRdptr]

end Sys2Proof.Machine
end

