-- ==== Sys2Proof/Laws/Sending.lean ====
section
/-! SUPPORT. Which frame an engine in its invariant is sending, and what the buffer of a loaded command holds. -/

namespace Sys2Proof.Machine

/-- The engine is sending the frame `f`: one of the three stages that send one, with its request (R194, R196). -/
def Engine.Sending (E : Engine) (f : FrameReq) : Prop :=
  E.stage = .rstif ∧ E.op = .initSpi ∧ f = Instr.rstif.frameReq ∨
    E.stage = .ptr ∧ (E.op = .rd ∨ E.op = .wr) ∧ f = (Instr.setptr E.addr).frameReq ∨
    E.stage = .acc ∧ E.op = .rd ∧ f = Instr.rdptr.frameReq ∨
    E.stage = .acc ∧ E.op = .wr ∧ f = (Instr.wrptr E.data).frameReq

/-- An engine in its invariant with a frame in progress is sending the frame its buffer holds, under SPI. -/
theorem Engine.Inv.sending {E : Engine} (h : E.Inv) (hp : E.phase ≠ .idle) :
    ∃ f, E.Sending f ∧ E.Holds f ∧ E.transport = .spi ∧ E.IndexOk ∧ E.rst = .low ∧
      E.cs = if E.phase.windowOpen then .low else .high := by
  obtain ⟨h1, h2, h3, h4, h5⟩ := h
  unfold Engine.StageOk at h1
  unfold Engine.BufferOk Engine.stageFrame at h2
  unfold Engine.RstOk at h5
  have hs : E.transport = .spi := by split at h1 <;> simp_all
  have hr := h5.2 (by simp [hs])
  have hc := h4.2 hs
  split at h1 <;> rename_i hst <;> simp only [hst] at h2 hr <;>
    first | exact absurd h1.2 hp | exact absurd h1.2.2 hp | skip
  · exact ⟨_, .inl ⟨hst, h1.1, rfl⟩, h2 _ rfl, hs, h3, hr, hc⟩
  · exact ⟨_, .inr (.inl ⟨hst, h1.1, rfl⟩), h2 _ rfl, hs, h3, hr, hc⟩
  · rcases h1.1 with ho | ho
    · rw [ho] at h2
      exact ⟨_, .inr (.inr (.inl ⟨hst, ho, rfl⟩)), h2 _ rfl, hs, h3, hr, hc⟩
    · rw [ho] at h2
      exact ⟨_, .inr (.inr (.inr ⟨hst, ho, rfl⟩)), h2 _ rfl, hs, h3, hr, hc⟩

/-- The converse: an engine that is sending a frame under SPI is in its invariant. -/
theorem Engine.Sending.inv {E : Engine} {f : FrameReq} (h : E.Sending f) (hp : E.phase ≠ .idle) (hh : E.Holds f)
    (ht : E.transport = .spi) (hi : E.IndexOk) (hr : E.rst = .low)
    (hc : E.cs = if E.phase.windowOpen then .low else .high) : E.Inv := by
  rcases h with ⟨ha, hb, rfl⟩ | ⟨ha, hb, rfl⟩ | ⟨ha, hb, rfl⟩ | ⟨ha, hb, rfl⟩ <;>
    refine ⟨?_, ?_, hi, ⟨by simp [ht], fun _ => hc⟩, ?_⟩ <;>
    simp_all [Engine.StageOk, Engine.BufferOk, Engine.stageFrame, Engine.RstOk]

/-- A loaded command's bytes are in the buffer (R122). -/
theorem fetch_of_holds {s : State} {i : Instr} (hp : s.eng.phase = .loaded) (hh : s.eng.Holds i.frameReq) :
    fetch s = some i := by
  unfold fetch
  rw [hp]
  obtain ⟨a, b, c, d⟩ := hh
  unfold Engine.loadedCommand Engine.cmdBytes
  cases i <;> simp only [Instr.frameReq] at a b c d <;>
    simp [a, b, c, d, decodeCommand, decode, opcodeOf, opRstif, opSetptr, opWrptr, opRdptr, Instr.opcode,
      Opcode.format, Format.replyBytes]

/-- Loading the frame that is loaded changes nothing. -/
theorem loadFrame_of_holds {s : State} {f : FrameReq} (hp : s.eng.phase = .loaded) (hh : s.eng.Holds f) :
    loadFrame f s = s := by
  obtain ⟨a, b, c, d⟩ := hh
  rcases s with ⟨E, T, x1, x2, x3, x4, x5, x6, x7⟩
  rcases E with ⟨e1, e2, e3, e4, e5, e6, e7, e8, e9, e10, e11, e12, e13, e14, e15, e16, e17⟩
  simp at a b c d hp
  subst a b c hp
  simp only [loadFrame, State.onEngine]
  by_cases h2 : f.len = 2
  · simp [h2, d h2]
  · simp [h2]

/-- With a frame loaded, an engine in its invariant has a command to send. -/
theorem Engine.Inv.fetch {s : State} (h : s.eng.Inv) (hp : s.eng.phase = .loaded) :
    ∃ i, Machine.fetch s = some i ∧ s.eng.Sending i.frameReq ∧ s.eng.Holds i.frameReq := by
  obtain ⟨f, hs, hh, _⟩ := h.sending (by simp [hp])
  have key : ∃ i : Instr, f = i.frameReq := by
    rcases hs with ⟨_, _, h⟩ | ⟨_, _, h⟩ | ⟨_, _, h⟩ | ⟨_, _, h⟩ <;> exact ⟨_, h⟩
  obtain ⟨i, rfl⟩ := key
  exact ⟨i, fetch_of_holds hp hh, hs, hh⟩

/-- Every command's meaning is its frame (R150). -/
theorem exec_eq (i : Instr) (s : State) : exec i s = .next (sendFrame Config.params i.frameReq s) := by
  cases i <;> rfl

/-- A command is fetched only with a frame loaded (10_state section 4). -/
theorem fetch_loaded {s : State} {i : Instr} (h : fetch s = some i) : s.eng.phase = .loaded := by
  unfold fetch at h
  split at h <;> first | assumption | cases h

section Steps
variable {P : Params} {s t : State}

/-- The step of a loaded command. -/
theorem stepWith_of_fetch {i : Instr} (h : fetch s = some i) :
    stepWith P s = .next (settle P (sendFrame P i.frameReq s)) := by
  unfold stepWith
  rw [h]

/-- The step of a stage. -/
theorem stepWith_of_stage (hp : s.eng.phase = .idle) (h : stageStep P s = .next t) :
    stepWith P s = .next (settle P t) := by
  unfold stepWith fetch
  rw [hp]
  simp only
  unfold eventStep eventCore
  rw [hp]
  simp only [h, settleOutcome]

/-- The sequencer waits in a stage that sends no frame. -/
theorem sequencerMove_of_stage (h1 : s.eng.stage ≠ .ptr) (h2 : s.eng.stage ≠ .acc) (h3 : s.eng.stage ≠ .rstif) :
    sequencerMove s = s := by
  unfold sequencerMove
  split <;> simp_all

/-- The sequencer waits while a frame is in progress. -/
theorem sequencerMove_of_phase (h : s.eng.phase ≠ .idle) : sequencerMove s = s := by
  unfold sequencerMove
  split <;> simp_all

theorem runWith_one {n : Nat} (h : stepWith P s = .next t) : runWith P (n + 1) s = runWith P n t := by
  simp only [runWith, h]

theorem runWith_add (m n : Nat) (h : runWith P m s = .next t) : runWith P (m + n) s = runWith P n t := by
  induction m generalizing s with
  | zero =>
    simp only [runWith] at h
    cases h
    rw [Nat.zero_add]
  | succ m ih =>
    rw [show m + 1 + n = (m + n) + 1 by omega]
    simp only [runWith] at h ⊢
    split at h
    · exact ih h
    · cases h
    · cases h

end Steps

end Sys2Proof.Machine
end

