-- ==== Sys2Proof/Tests/Slice0.lean ====
section
/-! SUPPORT. The model's own tests: decoding from words written out bit by bit, the checks of WellFormed, one step
of each command and of the machine around it (expected values from 95_test_vectors and the rules), and for every
statement with hypotheses a state and operands that meet them. -/

namespace Sys2Proof.Tests

open Sys2Proof Sys2Proof.Machine

/-! ### Fixtures -/

/-- The reference configuration of 95_test_vectors section 0, with failing transfers allowed. -/
def refParams : Params where
  pulseExtraMs := 0
  postResetMs := 0
  rdFill := 0x7E
  spiMode := 0
  bitOrder := .msbFirst
  sckHz := 0
  rfReset := fun _ => 0x00
  rfUnpulsed := fun _ => 0x00
  implemented := fun _ => true
  readable := fun _ => true
  writable := fun _ => true
  envWrites := fun _ => false
  shiftCanFail := true
  defaultCfg := []
  aSensorInputStatus := 0x03
  aMainControl := 0x00
  aProductId := 0xFD
  aManufacturerId := 0xFE
  aRevision := 0xFF
  aMultiTouchConfig := 0x2A
  aLedLinking := 0x72
  aThreshold := fun c => BitVec.ofNat 8 (0x2F + c)
  mtCode := fun n => BitVec.ofNat 8 (0x7C + 4 * n)
  ledLinkingByte := fun m => m
  freeReply := fun _ => 0x00
  freePtr := fun _ => 0x00
  freeHold := fun _ => 0x00
  freeWrite := fun _ => false
  i2cByte := fun _ => 0x00

/-- A target whose chip may change register 0x03 (M4). -/
def envParams : Params := { refParams with envWrites := fun a => a == 0x03 }

/-- An engine bound to SPI with nothing in progress (95 section 0, "SPI-ready"). -/
def readyEngine : Engine := { Engine.reset with transport := .spi, cs := .high, rst := .low }

/-- A target with a known parser and no pointer. -/
def knownTarget : Target := { Target.reset with rf := ⟨true, []⟩, known := true }

/-- A target with a known parser, pointing at register 0x30, which holds 0x40 (T5, T6). -/
def pointedTarget : Target :=
  { Target.reset with rf := ⟨true, [(0x30, 0x40)]⟩, known := true, ptr := 0x30, ptrValid := true }

/-- SPI-ready (95 section 0). -/
def spiReady : State := { State.reset with eng := readyEngine, tgt := knownTarget }

/-- SPI-ready with operations asked. -/
def asked (ops : List ClientOp) : State := { spiReady with inputs := ⟨ops, [], [], []⟩ }

/-- Bound to I2C with nothing in progress. -/
def i2cReady : State := { State.reset with eng := { Engine.reset with transport := .i2c, rst := .low } }

/-- A request's engine with the frame of a command loaded. -/
def loaded (stage : Stage) (op : OpKind) (i : Instr) (T : Target) : State :=
  loadFrame i.frameReq { State.reset with eng := { readyEngine with stage := stage, op := op }, tgt := T }

/-- The address frame of a read of register 0x30 is loaded (C1). -/
def loadedPtr : State :=
  loadFrame (Instr.setptr 0x30).frameReq
    { spiReady with eng := { readyEngine with stage := .ptr, op := .rd, addr := 0x30 } }

/-- The same for a write of 0x20 (C2). -/
def loadedPtrWr : State :=
  loadFrame (Instr.setptr 0x30).frameReq
    { spiReady with eng := { readyEngine with stage := .ptr, op := .wr, addr := 0x30, data := 0x20 } }

/-- The target with its fields compared. -/
def flags (T : Target) : Bool × Bool × Bool × ParserState := (T.known, T.ptrValid, T.mark, T.ps)

/-! ### Decoding: words written out from 30_encoding R94 and 95 section 2.1 -/

theorem test_decode_rstif : decodeTableWord 16 0b0111101001111010 = some .rstif := by decide

theorem test_decode_setptr :
    decodeTableWord 16 0b0111110100110000 = some (.setptr 0b00110000) ∧
      decodeTableWord 16 0b0111110111111111 = some (.setptr 0b11111111) ∧
      decodeTableWord 16 0b0111110101111010 = some (.setptr 0b01111010) := by decide

theorem test_decode_wrptr :
    decodeTableWord 16 0b0111111000000000 = some (.wrptr 0b00000000) ∧
      decodeTableWord 16 0b0111111001111111 = some (.wrptr 0b01111111) := by decide

theorem test_decode_rdptr : decodeTableWord 8 0b01111111 = some .rdptr := by decide

theorem test_decode_refuses :
    decodeTableWord 16 0x7A00 = none ∧ decodeTableWord 16 0x7A7D = none ∧ decodeTableWord 16 0x7B00 = none ∧
      decodeTableWord 16 0x7C00 = none ∧ decodeTableWord 16 0xFA7A = none ∧ decodeTableWord 16 0xFD30 = none ∧
      decodeTableWord 16 0x7F00 = none ∧ decodeTableWord 8 0x7A = none ∧ decodeTableWord 0 0 = none := by decide

theorem test_decode_names_the_error :
    decodeCommand [] = .error .empty ∧ decodeCommand [0x7B, 0x00] = .error (.reservedOpcode 0x7B) ∧
      decodeCommand [0x7A, 0x00] = .error (.reservedSecondByte 0x00) ∧
      decodeCommand [0x7E] = .error (.short .wrptr) ∧ decodeCommand [0x7D, 0x30, 0x7F] = .error .long :=
  ⟨rfl, rfl, rfl, rfl, rfl⟩

/-! ### WellFormed: an ill-formed term for each check (R122, R97, R227, R228) -/

theorem test_wellformed_twoSlots :
    FrameReq.twoSlots ⟨0x7D, 0x30, 2, 1⟩ = false ∧ FrameReq.twoSlots ⟨0x7F, 0x00, 1, 0⟩ = false ∧
      FrameReq.twoSlots ⟨0x7D, 0x30, 2, 0⟩ = true := by decide

theorem test_wellformed_isCommand :
    FrameReq.isCommand ⟨0x7B, 0x00, 2, 0⟩ = false ∧ FrameReq.isCommand ⟨0x7A, 0x00, 2, 0⟩ = false ∧
      FrameReq.isCommand ⟨0x7F, 0x00, 2, 0⟩ = false ∧ FrameReq.isCommand ⟨0x7F, 0x00, 1, 1⟩ = true := by decide

theorem test_wellformed_frame :
    FrameReq.wellFormed ⟨0x7D, 0x30, 1, 1⟩ = false ∧ FrameReq.wellFormed ⟨0x7E, 0x30, 2, 0⟩ = true := by decide

theorem test_wellformed_window :
    windowWellFormed [] = false ∧ windowWellFormed [0x7A] = false ∧ windowWellFormed [0x7A, 0x00] = false ∧
      windowWellFormed [0x00, 0x7A] = false ∧ windowWellFormed [0x7D, 0x30, 0x7F] = false ∧
      windowWellFormed [0x7F, 0x00] = true := by decide

theorem test_wellformed_channel :
    channelOk 0 = false ∧ channelOk 1 = true ∧ channelOk 8 = true ∧ channelOk 9 = false ∧ channelOk 255 = false := by
  decide

theorem test_wellformed_touchCount :
    touchCountOk 0 = false ∧ touchCountOk 1 = true ∧ touchCountOk 4 = true ∧ touchCountOk 5 = false := by decide

theorem test_wellformed_args :
    (ClientOp.setSensorInputThreshold 9 0x40).argsOk = false ∧ (ClientOp.getSensorInputThreshold 0).argsOk = false ∧
      (ClientOp.setMultipleTouchConfiguration true 5).argsOk = false ∧
      (ClientOp.setMultipleTouchConfiguration false 200).argsOk = true := by decide

/-- One pin for chip-select and reset (R301). -/
theorem test_wellformed_pins :
    (Request.initSpi 7 7).pinsOk = false ∧ (Request.initSpi 7 8).pinsOk = true ∧ (Request.initI2c 0x28 7).pinsOk = true := by
  decide

/-! ### The four commands: one window each (95 section 2.3) -/

/-- T1. -/
theorem test_rstif_from_the_unknown_state :
    flags (sendFrame refParams Instr.rstif.frameReq { spiReady with tgt := Target.reset }).tgt =
      (true, false, false, .idle) := by decide

/-- T2: the pointer is lost. -/
theorem test_rstif_loses_the_pointer :
    flags (sendFrame refParams Instr.rstif.frameReq { spiReady with tgt := pointedTarget }).tgt =
      (true, false, false, .idle) := by decide

/-- T8: an address equal to an op-code is an address. -/
theorem test_setptr_of_an_opcode_byte :
    (sendFrame refParams (Instr.setptr 0x7D).frameReq { spiReady with tgt := pointedTarget }).tgt.ptr = 0x7D := by
  decide

/-- T11: a command before the interface reset is refused. -/
theorem test_setptr_before_the_interface_reset :
    flags (sendFrame refParams (Instr.setptr 0x30).frameReq { spiReady with tgt := Target.reset }).tgt =
      (false, false, true, .idle) := by decide

/-- T5 with the fill 0x7E: the byte of register 0x30 is captured, the fill is not decoded. -/
theorem test_rdptr_captures_the_register :
    (sendFrame refParams Instr.rdptr.frameReq { spiReady with tgt := pointedTarget }).eng.rx = 0x40 ∧
      flags (sendFrame refParams Instr.rdptr.frameReq { spiReady with tgt := pointedTarget }).tgt =
        (true, false, false, .idle) := by decide

/-- F5: the reply slot fails; nothing is captured, and the report is passed on unchanged (R242). -/
theorem test_rdptr_failing_reply_slot :
    let t := sendFrame refParams Instr.rdptr.frameReq
      { spiReady with tgt := pointedTarget, inputs := ⟨[], [none, some 9], [], []⟩ }
    t.trace = [.csLow, .tx 0x7F, .xferFail, .csHigh] ∧ t.response = some (.err (.transportError 9)) := by decide

/-- T7: a datum equal to an op-code is written. -/
theorem test_wrptr_writes_the_register :
    (sendFrame refParams (Instr.wrptr 0x7A).frameReq { spiReady with tgt := pointedTarget }).tgt.rf =
      ⟨true, [(0x30, 0x7A)]⟩ := by decide

/-- T10: with no pointer the window is refused and nothing is written. -/
theorem test_wrptr_without_pointer :
    flags (sendFrame refParams (Instr.wrptr 0x20).frameReq spiReady).tgt = (false, false, true, .idle) ∧
      (sendFrame refParams (Instr.wrptr 0x20).frameReq spiReady).tgt.rf = ⟨true, []⟩ := by decide

/-! ### The machine around the commands -/

/-- T13 to T17: malformed windows are refused. -/
theorem test_malformed_windows_are_refused :
    ([[], [0x7A], [0x7F], [0x7A, 0x00], [0x7B, 0x00], [0x7D, 0x30, 0x7F]].all fun m =>
      flags (targetWindow refParams m pointedTarget) == (false, false, true, .idle)) = true := by decide

/-- T22: the parser becomes known at the `CsHigh`, not at the second byte. -/
theorem test_rstif_takes_effect_at_csHigh :
    (tgtSlots refParams [0x7A, 0x7A] (tgtCsLow Target.reset)).known = false := by decide

/-- Writing the value an unlisted register has removes its entry. -/
theorem test_write_keeps_the_canonical_form :
    (RegFile.mk true [(0x30, 0x40)]).write refParams 0x30 0x00 = ⟨true, []⟩ ∧
      (RegFile.mk true [(0x30, 0x40)]).write refParams 0x03 0x05 = ⟨true, [(0x03, 0x05), (0x30, 0x40)]⟩ := by decide

/-- I1: the pin set-up of `initSPI`. -/
theorem test_initSpi_pins :
    (accept refParams (.initSpi 7 8) State.reset).trace = [.pinMode 7, .csHigh, .pinMode 8] := by decide

/-- I1: the first step of the pulse resets the target. -/
theorem test_resetHigh_resets_the_target :
    (resetHigh refParams { spiReady with tgt := pointedTarget }).tgt.rf = ⟨true, []⟩ ∧
      flags (resetHigh refParams { spiReady with tgt := pointedTarget }).tgt = (false, false, false, .idle) := by
  decide

/-- X1 and X3: the lifecycle errors. -/
theorem test_lifecycle_errors :
    (accept refParams (.readRegister 0x03) State.reset).response = some (.err .notInitialised) ∧
      (accept refParams (.initSpi 7 8) spiReady).response = some (.err .alreadyInitialised) ∧
      (accept refParams (.initSpi 7 8) spiReady).trace = [] := by decide

/-- C4: a register request under I2C is one call. -/
theorem test_i2c_write_is_one_call :
    (i2cWriteStep { i2cReady with
        eng := { i2cReady.eng with i2cAddress := 0x28, stage := .i2c, op := .wr, addr := 0x2A, data := 0x80 } }).trace =
      [.i2cWrite 0x28 0x2A 0x80] := by decide

/-- 95 section 2.7. -/
theorem test_clearInterruptFlag :
    ([0x00, 0x01, 0x02, 0x7F, 0x80, 0x81, 0xFE, 0xFF, 0x55, 0xAA].map clearInterruptFlag) =
      [0x00, 0x00, 0x02, 0x7E, 0x80, 0x80, 0xFE, 0xFE, 0x54, 0xAA] := by decide

/-- V8: the multi-touch operation. -/
theorem test_multiTouch_requests :
    clientStart refParams (.setMultipleTouchConfiguration false 200) = .ask (.writeRegister 0x2A 0x00) .single ∧
      clientStart refParams (.setMultipleTouchConfiguration true 4) = .ask (.writeRegister 0x2A 0x8C) .single ∧
      clientStart refParams (.setMultipleTouchConfiguration true 5) = .done (.err .invalidArgument) := by decide

/-- The host's placement of a word is fetched and run. -/
theorem test_withFetchWord_is_fetched :
    fetch (State.reset.withFetchWord 16 0x7A7A) = some .rstif ∧
      fetch (State.reset.withFetchWord 16 0x7D30) = some (.setptr 0x30) ∧
      fetch (State.reset.withFetchWord 16 0x7E12) = some (.wrptr 0x12) ∧
      fetch (State.reset.withFetchWord 8 0x7F) = some .rdptr ∧
      fetch (State.reset.withFetchWord 16 0x7B00) = none := by decide

/-! ### For every statement with hypotheses, a state and operands that meet them

Conditions on the open `Config.params` (implemented, readable, writable) that guard one clause of a statement about
`exec` are met under `refParams` by the statements over every `P`; of the opaque constants nothing can be shown. -/

/-- The coming slots as given: one that fails has a report. -/
def failing (faults : List (Option FaultReport)) (s : State) : State := { s with inputs := { s.inputs with slotFaults := faults } }

/-- A frame of the fixture part-way: after `k` events of the frame machine. -/
def partway (k : Nat) (s : State) : State := frameSteps refParams k s

/-- The engine in a stage of an SPI initialisation that sends no frame. -/
def pulsing (stage : Stage) (rst : Level) : State :=
  { spiReady with eng := { readyEngine with stage := stage, op := .initSpi, rst := rst } }

/-- An I2C request dispatched, with the next call failing or not. -/
def i2cAsked (op : OpKind) (failure : Option FaultReport) : State :=
  { i2cReady with eng := { i2cReady.eng with stage := .i2c, op := op }, inputs := ⟨[], [], [failure], []⟩ }

/-- The client layer waits, and has a response. -/
def answered (c : ClientTask) (r : Response) : State := { spiReady with client := c, response := some r }

theorem test_witness_DecodeAndEncodeAgree :
    Instr.rstif.wellFormed = true ∧ (Instr.setptr 0x00).wellFormed = true ∧ (Instr.setptr 0xFF).wellFormed = true ∧
      (Instr.wrptr 0x00).wellFormed = true ∧ (Instr.wrptr 0xFF).wellFormed = true ∧ Instr.rdptr.wellFormed = true := by
  decide

theorem test_witness_DecoderFollowsTheOpcodeTable :
    65535 < 65536 ∧ 255 < 256 ∧ (opTable.filter fun r => r.covers 16 0x7DFF).map (fun r => r.mnemonic) = ["SETPTR"] ∧
      (opTable.filter fun r => r.covers 8 0x7F).map (fun r => r.mnemonic) = ["RDPTR"] := by decide

theorem test_witness_MalformedCommandsAreRejectedByName :
    ((0x7B : Byte) ≠ 0x7A ∧ (0x7B : Byte) ≠ 0x7D ∧ (0x7B : Byte) ≠ 0x7E ∧ (0x7B : Byte) ≠ 0x7F) ∧
      (0xFF : Byte) ≠ 0x7A ∧ (0x00 : Byte) ≠ 0x7A := by decide

theorem test_witness_StepRunsTheLoadedCommand :
    ∀ i ∈ [Instr.rstif, .setptr 0x00, .setptr 0xFF, .wrptr 0x00, .wrptr 0xFF, .rdptr],
      (loaded .acc .rd i pointedTarget).eng.phase = .loaded ∧
        decodeCommand (loaded .acc .rd i pointedTarget).eng.cmdBytes = .ok i ∧ i.wellFormed = true ∧
        (loaded .acc .rd i pointedTarget).eng.cap = i.opcode.format.replyBytes := by
  intro i hi
  simp only [List.mem_cons, List.not_mem_nil, or_false] at hi
  rcases hi with rfl | rfl | rfl | rfl | rfl | rfl <;> exact ⟨rfl, rfl, rfl, rfl⟩

theorem test_witness_WindowStepIsItsEventSteps :
    fetch loadedPtr = some (.setptr 0x30) ∧ loadedPtr.SlotsOk 2 ∧
      fetch (loaded .acc .rd .rdptr pointedTarget) = some .rdptr ∧
      (loaded .acc .rd .rdptr pointedTarget).SlotsOk 2 :=
  ⟨rfl, by unfold State.SlotsOk; decide, rfl, by unfold State.SlotsOk; decide⟩

theorem test_witness_LoadedFrameEndsAfterFourSteps :
    (loadedPtr.eng.phase = .loaded ∧ loadedPtr.eng.len = 2 ∧ loadedPtr.eng.cap = 0 ∧ loadedPtr.SlotsOk 2) ∧
      (loaded .acc .rd .rdptr pointedTarget).eng.phase = .loaded ∧
      (loaded .acc .rd .rdptr pointedTarget).eng.len = 1 ∧ (loaded .acc .rd .rdptr pointedTarget).eng.cap = 1 ∧
      (loaded .acc .rd .rdptr pointedTarget).SlotsOk 2 ∧ 0 < 4 ∧ 3 < 4 :=
  ⟨⟨rfl, rfl, rfl, by unfold State.SlotsOk; decide⟩, rfl, rfl, rfl, by unfold State.SlotsOk; decide, by decide,
    by decide⟩

theorem test_witness_RstifMakesTheParserKnown : State.reset.SlotsOk 2 ∧ (failing [none, none, some 9] spiReady).SlotsOk 2 := by
  unfold State.SlotsOk; decide

theorem test_witness_SetptrPointsAtItsAddress : spiReady.SlotsOk 2 ∧ spiReady.tgt.known = true := by
  unfold State.SlotsOk; decide

theorem test_witness_RdptrCapturesThePointedRegister :
    (loaded .acc .rd .rdptr pointedTarget).SlotsOk 2 ∧ (loaded .acc .rd .rdptr pointedTarget).tgt.known = true ∧
      (loaded .acc .rd .rdptr pointedTarget).tgt.ptrValid = true := by
  unfold State.SlotsOk; decide

/-- With an empty list the canonical form holds whatever the open constants are. -/
theorem test_witness_WrptrWritesThePointedRegister :
    (loaded .acc .wr (.wrptr 0x20) { pointedTarget with rf := ⟨true, []⟩ }).SlotsOk 2 ∧
      (loaded .acc .wr (.wrptr 0x20) { pointedTarget with rf := ⟨true, []⟩ }).tgt.known = true ∧
      (loaded .acc .wr (.wrptr 0x20) { pointedTarget with rf := ⟨true, []⟩ }).tgt.ptrValid = true ∧
      (loaded .acc .wr (.wrptr 0x20) { pointedTarget with rf := ⟨true, []⟩ }).tgt.rf.wf Config.params :=
  ⟨by unfold State.SlotsOk; decide, rfl, rfl, List.Pairwise.nil, by simp [loaded, loadFrame, State.onEngine]⟩

theorem test_witness_CommandWithoutPreconditionIsRefused :
    (State.reset.SlotsOk 2 ∧ Instr.setptr 0x30 ≠ .rstif ∧ State.reset.tgt.known = false) ∧
      spiReady.SlotsOk 2 ∧ Instr.rdptr ≠ .rstif ∧ (∀ a, Instr.rdptr ≠ .setptr a) ∧ (∀ a, Instr.wrptr 0xFF ≠ .setptr a) ∧
      spiReady.tgt.known = true ∧ spiReady.tgt.ptrValid = false :=
  ⟨⟨by unfold State.SlotsOk; decide, by decide, rfl⟩, by unfold State.SlotsOk; decide, by decide, nofun, nofun, rfl, rfl⟩

theorem test_witness_CommandsLeaveTheRestUnchanged :
    (∃ t, exec .rdptr (loaded .acc .rd .rdptr pointedTarget) = .next t) ∧ (∃ t, exec .rstif spiReady = .next t) ∧
      (∃ t, exec (.wrptr 0x20) spiReady = .next t) ∧ spiReady.SlotsOk 2 ∧ (0x31 : Byte) ≠ pointedTarget.ptr ∧
      Instr.rstif ≠ .rdptr ∧ ∀ d, Instr.rdptr ≠ .wrptr d :=
  ⟨⟨_, rfl⟩, ⟨_, rfl⟩, ⟨_, rfl⟩, by unfold State.SlotsOk; decide, by decide, by decide, nofun⟩

theorem test_witness_EffectiveCommandsKeepTheOtherFlags :
    (∃ t, exec (.setptr 0x30) spiReady = .next t) ∧ spiReady.SlotsOk 2 ∧ spiReady.tgt.known = true ∧
      ¬(∀ a, Instr.setptr 0x30 ≠ .setptr a) ∧ (∃ t, exec .rdptr (loaded .acc .rd .rdptr pointedTarget) = .next t) ∧
      (loaded .acc .rd .rdptr pointedTarget).tgt.ptrValid = true :=
  ⟨⟨_, rfl⟩, by unfold State.SlotsOk; decide, rfl, fun h => h _ rfl, ⟨_, rfl⟩, rfl⟩

theorem test_witness_InitiatorDoesNotDependOnTheTarget :
    (fetch loadedPtr = some (.setptr 0x30) ∧ Instr.setptr 0x30 ≠ .rdptr ∧ loadedPtr.tgt ≠ Target.reset ∧
        slotFailure refParams loadedPtr = none ∧ slotFailure refParams (useSlot loadedPtr) = none) ∧
      let s := failing [none, some 9] (loaded .acc .rd .rdptr pointedTarget)
      fetch s = some .rdptr ∧ slotFailure refParams (failing [some 7] s) ≠ none ∧
        slotFailure refParams (useSlot s) ≠ none ∧ s.tgt ≠ Target.reset := by decide

theorem test_witness_FailingSlotClosesTheWindowAndRaises :
    ({ refParams with shiftCanFail := false } : Params).shiftCanFail = false ∧
      (partway 1 (failing [some 7] loadedPtr)).eng.phase = .command ∧
      slotFailure refParams (partway 1 (failing [some 7] loadedPtr)) = some 7 ∧
      (partway 2 (failing [none, some 9] (loaded .acc .rd .rdptr pointedTarget))).eng.phase = .reply ∧
      slotFailure refParams (partway 2 (failing [none, some 9] (loaded .acc .rd .rdptr pointedTarget))) = some 9 := by
  decide

theorem test_witness_FailedWindowEndsTheRequest :
    (fetch (failing [some 7] loadedPtr) = some (.setptr 0x30) ∧ slotFailure refParams (failing [some 7] loadedPtr) = some 7) ∧
      slotFailure refParams (failing [none, some 9] loadedPtr) = none ∧
      slotFailure refParams (useSlot (failing [none, some 9] loadedPtr)) = some 9 := by decide

theorem test_witness_FailedWriteLeavesOldOrNewByte :
    pointedTarget.rf.wf refParams ∧
      slotFailure refParams (failing [some 7] (loaded .acc .wr (.wrptr 0x20) pointedTarget)) = some 7 ∧
      slotFailure refParams (failing [none, some 9] (loaded .acc .wr (.wrptr 0x20) pointedTarget)) = none ∧
      slotFailure refParams (useSlot (failing [none, some 9] (loaded .acc .wr (.wrptr 0x20) pointedTarget))) = some 9 ∧
      (0xFF : Byte) ≠ pointedTarget.ptr := by decide

theorem test_witness_TargetWindowFollowsTheSummary :
    pointedTarget.ps = .idle ∧ pointedTarget.known = true ∧ pointedTarget.ptrValid = true ∧
      ([] : List Byte) ≠ [0x7A, 0x7A] ∧ (¬∃ a : Byte, ([] : List Byte) = [0x7D, a]) ∧
      (¬∃ d : Byte, ([] : List Byte) = [0x7E, d]) ∧ ¬∃ f : Byte, ([] : List Byte) = [0x7F, f] :=
  ⟨rfl, rfl, rfl, nofun, nofun, nofun, nofun⟩

theorem test_witness_RefusedWindowsAreExactlyTheListed :
    pointedTarget.ps = .idle ∧ Target.reset.ps = .idle ∧ windowWellFormed [0x7A, 0x00] = false ∧
      ([0x7D, 0x30] : List Byte).head? ≠ some 0x7A ∧ knownTarget.ptrValid = false ∧
      ([0x7F, 0x00] : List Byte).head? = some 0x7F := by decide

theorem test_witness_SurplusSlotAfterWriteLeavesEitherByte :
    pointedTarget.rf.wf refParams ∧ pointedTarget.known = true ∧ pointedTarget.ptrValid = true ∧
      (0x31 : Byte) ≠ pointedTarget.ptr := by decide

theorem test_witness_OnlyRstifRestoresTheParser :
    (Target.reset.known = false ∧ (targetWindow refParams [0x7A, 0x7A] Target.reset).known = true) ∧
      ((loaded .rstif .initSpi .rstif Target.reset).BetweenWindows ∧
        (loaded .rstif .initSpi .rstif Target.reset).tgt.known = false ∧
        ∃ t, step (loaded .rstif .initSpi .rstif Target.reset) = .next t ∧ t.tgt.known = true) ∧
      ∃ t, step { spiReady with tgt := { knownTarget with mark := true } } = .next t ∧
        ({ spiReady with tgt := { knownTarget with mark := true } } : State).tgt.mark = true :=
  ⟨by decide, ⟨⟨.inr rfl, rfl⟩, rfl, _, rfl, rfl⟩, _, rfl, rfl⟩

theorem test_witness_MemWriteChangesOneRegister :
    pointedTarget.rf.wf refParams ∧ refParams.implemented 0x30 = true ∧ refParams.writable 0x30 = true ∧
      refParams.ReferenceTarget ∧ (0xFF : Byte) ≠ 0x00 :=
  ⟨by decide, rfl, rfl, fun _ => ⟨rfl, rfl, rfl, rfl⟩, by decide⟩

theorem test_witness_EqualRegisterFilesAreEqualData :
    ((RegFile.mk true []).write refParams 0x30 0x40).wf refParams ∧ pointedTarget.rf.wf refParams ∧
      ((RegFile.mk true []).write refParams 0x30 0x40).pulsed = pointedTarget.rf.pulsed ∧
      ∀ a, ((RegFile.mk true []).write refParams 0x30 0x40).read refParams a = pointedTarget.rf.read refParams a :=
  ⟨by decide, by decide, rfl, fun _ => rfl⟩

theorem test_witness_EnvironmentChangesOnlyItsRegisters :
    (partway 1 loadedPtr).eng.cs = .low ∧ (pulsing .rstHigh .high).eng.rst = .high ∧ envParams.envWrites 0x00 = false ∧ envParams.envWrites 0x03 = true ∧
      spiReady.eng.cs = .high ∧ spiReady.eng.rst ≠ .high ∧ spiReady.tgt.rf.wf envParams ∧
      ({ spiReady with inputs := ⟨[], [], [], [[(0x03, 0x05)]]⟩ } : State).inputs.envChanges = [(0x03, 0x05)] :: [] := by
  decide

theorem test_witness_invariant_at_rest (P : Params) (ops : List ClientOp) : (asked ops).Inv P := by
  refine ⟨⟨⟨rfl, rfl⟩, nofun, ?_, ?_, ?_⟩, ?_, ⟨.inl rfl, rfl⟩, ⟨.nil, nofun⟩, nofun⟩
  · simp [Engine.IndexOk, asked, spiReady, readyEngine, Engine.reset]
  · simp [Engine.CsOk, asked, spiReady, readyEngine, Engine.reset, Phase.windowOpen]
  · simp [Engine.RstOk, asked, spiReady, readyEngine, Engine.reset]
  · simp [State.ClientOk, asked, spiReady, State.reset]

/-- A fixture that sends a frame is in its invariant. -/
theorem test_witness_invariant_sending (P : Params) : loadedPtr.Inv P ∧ loadedPtrWr.Inv P := by
  refine ⟨⟨Engine.Sending.inv (.inr (.inl ⟨rfl, .inl rfl, rfl⟩)) nofun ⟨rfl, rfl, rfl, fun _ => rfl⟩ rfl ?_ rfl rfl,
    ?_, ⟨.inr rfl, rfl⟩, ⟨.nil, nofun⟩, nofun⟩,
    ⟨Engine.Sending.inv (.inr (.inl ⟨rfl, .inr rfl, rfl⟩)) nofun ⟨rfl, rfl, rfl, fun _ => rfl⟩ rfl ?_ rfl rfl,
    ?_, ⟨.inr rfl, rfl⟩, ⟨.nil, nofun⟩, nofun⟩⟩
  · exact ⟨by decide, nofun, nofun⟩
  · exact fun h => absurd rfl h
  · exact ⟨by decide, nofun, nofun⟩
  · exact fun h => absurd rfl h

theorem test_witness_EveryStepKeepsTheMachineInvariant :
    (spiReady.Inv Config.params ∧ ∃ t, step spiReady = .next t) ∧
      loadedPtr.Inv Config.params ∧ ∃ t, step loadedPtr = .next t :=
  ⟨⟨test_witness_invariant_at_rest _ [], _, rfl⟩, (test_witness_invariant_sending _).1, _, rfl⟩

theorem test_witness_EveryEventKeepsTheEngineInvariant :
    loadedPtr.eng.Inv ∧ ∃ t, eventStep refParams loadedPtr = .next t :=
  ⟨(test_witness_invariant_sending refParams).1.1, _, rfl⟩

/-- One state for each clause: a window opened, a window closed with the access frame loaded, the engine idle, and
the first step of the pulse. -/
theorem test_witness_ChipSelectIsLowExactlyInAWindow :
    (loadedPtr.eng.Inv ∧ ∃ t, eventStep refParams loadedPtr = .next t ∧ t.eng.transport = .spi ∧ t.eng.phase = .command) ∧
      ((partway 3 loadedPtr).eng.Inv ∧ ∃ t, eventStep refParams (partway 3 loadedPtr) = .next t ∧
        t.eng.transport = .spi ∧ t.eng.phase = .loaded) ∧
      (spiReady.eng.Inv ∧ ∃ t, eventStep refParams spiReady = .next t ∧ t.eng.transport = .spi ∧ t.eng.stage = .idle) ∧
      (pulsing .pins .undriven).eng.Inv ∧ ∃ t, eventStep refParams (pulsing .pins .undriven) = .next t ∧
        t.eng.transport = .spi ∧ t.eng.rst = .high := by
  refine ⟨⟨(test_witness_invariant_sending refParams).1.1, _, rfl, rfl, rfl⟩, ⟨?_, _, rfl, rfl, rfl⟩,
    ⟨(test_witness_invariant_at_rest refParams []).1, _, rfl, rfl, rfl⟩, ?_, _, rfl, rfl, rfl⟩
  · exact Engine.Sending.inv (.inr (.inl ⟨rfl, .inl rfl, rfl⟩)) nofun ⟨rfl, rfl, rfl, fun _ => rfl⟩ rfl
      ⟨by decide, nofun, nofun⟩ rfl rfl
  · refine ⟨⟨.inl ⟨rfl, rfl⟩, rfl⟩, nofun, ⟨by decide, nofun, nofun⟩, ⟨nofun, fun _ => rfl⟩, nofun, fun _ => rfl⟩

theorem test_witness_NoReachableStateIsStuck :
    ((asked [.writeAllThresholds]).Inv Config.params ∧
        step (asked [.writeAllThresholds]) = .refused .knownUnreliable) ∧
      (asked [.initSpi 7 7]).Inv Config.params ∧ step (asked [.initSpi 7 7]) = .refused .sharedPins :=
  ⟨⟨test_witness_invariant_at_rest _ _, rfl⟩, test_witness_invariant_at_rest _ _, rfl⟩

theorem test_witness_WithoutFailureNoWindowIsRefused :
    loadedPtr.Inv Config.params ∧ loadedPtr.Clean ∧ loadedPtr.NoSlotFault ∧ ∃ t, step loadedPtr = .next t :=
  ⟨(test_witness_invariant_sending _).1, by unfold State.Clean; decide, by unfold State.NoSlotFault; decide, _, rfl⟩

theorem test_witness_DeviceHandleIsWrittenOnce :
    ∃ t, step (asked [.request (.initSpi 7 8)]) = .next t ∧ (asked [.request (.initSpi 7 8)]).eng.transport ≠ .none :=
  ⟨_, rfl, by decide⟩

/-- A register request before any initialisation (X1): the engine is uninitialised before and after. -/
theorem test_witness_UninitialisedEngineEmitsNothing :
    State.reset.Inv Config.params ∧
      ({ State.reset with inputs := ⟨[.request (.readRegister 0x03)], [], [], []⟩ } : State).Inv Config.params ∧
      ∃ t, step { State.reset with inputs := ⟨[.request (.readRegister 0x03)], [], [], []⟩ } = .next t ∧
        t.eng.transport = .none := by
  refine ⟨?_, ?_, _, rfl, rfl⟩ <;>
    exact ⟨⟨⟨rfl, rfl⟩, nofun, ⟨by decide, nofun, nofun⟩, ⟨fun _ => rfl, nofun⟩, fun _ => ⟨rfl, rfl⟩, fun h => absurd rfl h⟩,
      fun h => absurd rfl h, ⟨.inl rfl, rfl⟩, ⟨.nil, nofun⟩, nofun⟩

theorem test_witness_TransportsNeverMix :
    (loadedPtr.Inv Config.params ∧ ∃ t, step loadedPtr = .next t ∧ t.eng.transport = .spi) ∧
      (i2cAsked .wr none).Inv Config.params ∧ ∃ t, step (i2cAsked .wr none) = .next t ∧ t.eng.transport = .i2c := by
  refine ⟨⟨(test_witness_invariant_sending _).1, _, rfl, rfl⟩, ?_, _, rfl, rfl⟩
  exact ⟨⟨⟨.inr rfl, rfl, rfl⟩, nofun, ⟨by decide, nofun, nofun⟩, ⟨fun _ => rfl, nofun⟩, nofun, fun _ => rfl⟩,
    fun h => absurd rfl h, ⟨.inl rfl, rfl⟩, ⟨.nil, nofun⟩, nofun⟩

theorem test_witness_RegisterRequestBeforeInitialisation :
    State.reset.eng.StageOk ∧ State.reset.eng.stage = .idle ∧ State.reset.eng.transport = .none ∧
      (∀ cs rst, Request.readRegister 0x00 ≠ .initSpi cs rst) ∧ ∀ adr rst, Request.writeRegister 0xFF 0xFF ≠ .initI2c adr rst :=
  ⟨⟨rfl, rfl⟩, rfl, rfl, nofun, nofun⟩

theorem test_witness_SecondInitialisationIsRejected :
    (spiReady.eng.StageOk ∧ spiReady.eng.stage = .idle ∧ spiReady.eng.transport ≠ .none ∧
        ∃ cs rst, Request.initSpi 7 8 = .initSpi cs rst) ∧
      i2cReady.eng.StageOk ∧ i2cReady.eng.transport ≠ .none ∧ ∃ adr rst, Request.initI2c 0x7F 8 = .initI2c adr rst :=
  ⟨⟨⟨rfl, rfl⟩, rfl, by decide, _, _, rfl⟩, ⟨rfl, rfl⟩, by decide, _, _, rfl⟩

theorem test_witness_PointerSetImmediatelyPrecedesTheAccess :
    (loadedPtr.Inv Config.params ∧ loadedPtr.eng.stage = .ptr ∧ fetch loadedPtr = some (.setptr 0x30) ∧
        loadedPtr.SlotsOk 2 ∧ loadedPtr.eng.op = .rd) ∧
      loadedPtrWr.Inv Config.params ∧ fetch loadedPtrWr = some (.setptr 0x30) ∧ loadedPtrWr.eng.op = .wr :=
  ⟨⟨(test_witness_invariant_sending _).1, rfl, rfl, by unfold State.SlotsOk; decide, rfl⟩,
    (test_witness_invariant_sending _).2, rfl, rfl⟩

theorem test_witness_ReadResponseIsTheCapturedByte :
    (loaded .acc .rd .rdptr pointedTarget).eng.stage = .acc ∧ (loaded .acc .rd .rdptr pointedTarget).eng.op = .rd ∧
      fetch (loaded .acc .rd .rdptr pointedTarget) = some .rdptr ∧ (loaded .acc .rd .rdptr pointedTarget).SlotsOk 2 :=
  ⟨rfl, rfl, rfl, by unfold State.SlotsOk; decide⟩

theorem test_witness_spiReady (ops : List ClientOp) :
    (asked ops).SpiReady ∧ (asked ops).client = .idle ∧ (asked ops).SlotsOk 4 ∧ (asked ops).NoEnvChange ∧
      (asked ops).NoSlotFault :=
  ⟨⟨rfl, rfl, rfl, rfl, rfl, rfl, rfl⟩, rfl, nofun, nofun, nofun⟩

theorem test_witness_SpiReadCompletes :
    (asked [.request (.readRegister 0xFF)]).SpiReady ∧ (asked [.request (.readRegister 0xFF)]).client = .idle ∧
      (asked [.request (.readRegister 0xFF)]).inputs.ops = .request (.readRegister 0xFF) :: [] ∧
      (asked [.request (.readRegister 0xFF)]).SlotsOk 4 ∧ (asked [.request (.readRegister 0xFF)]).NoEnvChange ∧
      refParams.implemented 0xFF = true ∧ refParams.readable 0xFF = true :=
  ⟨(test_witness_spiReady _).1, rfl, rfl, (test_witness_spiReady _).2.2.1, (test_witness_spiReady _).2.2.2.1, rfl, rfl⟩

theorem test_witness_SpiWriteCompletes :
    (asked [.request (.writeRegister 0x00 0xFF)]).SpiReady ∧
      (asked [.request (.writeRegister 0x00 0xFF)]).client = .idle ∧
      (asked [.request (.writeRegister 0x00 0xFF)]).inputs.ops = .request (.writeRegister 0x00 0xFF) :: [] ∧
      (asked [.request (.writeRegister 0x00 0xFF)]).SlotsOk 4 ∧
      (asked [.request (.writeRegister 0x00 0xFF)]).NoEnvChange ∧
      (asked [.request (.writeRegister 0x00 0xFF)]).tgt.rf.wf refParams ∧ refParams.implemented 0x00 = true ∧
      refParams.writable 0x00 = true ∧ (0xFF : Byte) ≠ 0x00 :=
  ⟨(test_witness_spiReady _).1, rfl, rfl, (test_witness_spiReady _).2.2.1, (test_witness_spiReady _).2.2.2.1,
    ⟨.nil, nofun⟩, rfl, rfl, by decide⟩

theorem test_witness_ReadAfterWriteReturnsTheByte :
    let s := asked [.request (.writeRegister 0x30 0x20), .request (.readRegister 0x30)]
    refParams.ReferenceTarget ∧ s.SpiReady ∧ s.client = .idle ∧
      s.inputs.ops = .request (.writeRegister 0x30 0x20) :: .request (.readRegister 0x30) :: [] ∧ s.NoSlotFault ∧
      s.tgt.rf.wf refParams :=
  ⟨fun _ => ⟨rfl, rfl, rfl, rfl⟩, (test_witness_spiReady _).1, rfl, rfl, (test_witness_spiReady _).2.2.2.2,
    ⟨.nil, nofun⟩⟩

/-- A write of register 0x30 comes between; register 0x31 is asked about. -/
theorem test_witness_ReadAfterWriteReturnsTheByte_between :
    refParams.ReferenceTarget ∧ (loaded .acc .wr (.wrptr 0x00) pointedTarget).Inv refParams ∧
      (∃ t, stepWith refParams (loaded .acc .wr (.wrptr 0x00) pointedTarget) = .next t) ∧
      (loaded .acc .wr (.wrptr 0x00) pointedTarget).eng.stage ≠ .pins ∧
      fetch (loaded .acc .wr (.wrptr 0x00) pointedTarget) = some (.wrptr 0x00) ∧
      (loaded .acc .wr (.wrptr 0x00) pointedTarget).tgt.ptr ≠ 0x31 := by
  refine ⟨fun _ => ⟨rfl, rfl, rfl, rfl⟩, ?_, ⟨_, rfl⟩, by decide, rfl, by decide⟩
  exact ⟨Engine.Sending.inv (.inr (.inr (.inr ⟨rfl, rfl, rfl⟩))) nofun ⟨rfl, rfl, rfl, fun _ => rfl⟩ rfl
    ⟨by decide, nofun, nofun⟩ rfl rfl, fun h => absurd rfl h, ⟨.inr rfl, rfl⟩, by decide, fun _ => rfl⟩

theorem test_witness_I2cRequestIsOneCall :
    (i2cAsked .rd none).eng.stage = .i2c ∧ (i2cAsked .rd none).eng.phase = .idle ∧ (i2cAsked .rd none).eng.op = .rd ∧
      (i2cAsked .rd none).inputs.i2cFaults.headD none = none ∧ (i2cAsked .wr none).eng.op = .wr ∧
      (i2cAsked .wr (some 9)).eng.op = .wr ∧ (i2cAsked .wr (some 9)).inputs.i2cFaults.headD none = some 9 := by decide

theorem test_witness_ResetPulseResetsTheTarget :
    (pulsing .pins .undriven).eng.stage = .pins ∧ (pulsing .pins .undriven).eng.phase = .idle ∧
      (pulsing .pins .undriven).NoEnvChange :=
  ⟨rfl, rfl, nofun⟩

theorem test_witness_InitSpiCompletes :
    let s : State := { State.reset with inputs := ⟨[.request (.initSpi 7 8)], [], [], []⟩ }
    s.eng.transport = .none ∧ s.eng.stage = .idle ∧ s.eng.phase = .idle ∧ s.tgt.ps = .idle ∧ s.client = .idle ∧
      s.inputs.ops = .request (.initSpi 7 8) :: [] ∧ (7 : PinId) ≠ 8 ∧ s.SlotsOk 2 ∧ envParams.envWrites 0xFF = false :=
  ⟨rfl, rfl, rfl, rfl, rfl, rfl, by decide, by unfold State.SlotsOk; decide, rfl⟩

theorem test_witness_InitI2cCompletes :
    let s : State := { State.reset with inputs := ⟨[.request (.initI2c 0x28 8)], [], [], []⟩ }
    s.eng.transport = .none ∧ s.eng.stage = .idle ∧ s.eng.phase = .idle ∧ s.client = .idle ∧
      s.inputs.ops = .request (.initI2c 0x28 8) :: [] ∧ envParams.envWrites 0xFF = false :=
  ⟨rfl, rfl, rfl, rfl, rfl, rfl⟩

theorem test_witness_InterruptClearClearsBitZeroOnly :
    (1 ≤ 1 ∧ 1 < 8) ∧ (1 ≤ 7 ∧ 7 < 8) ∧ (0xFE : Byte).getLsbD 0 = false ∧ (0xFF : Byte).getLsbD 0 = true := by decide

theorem test_witness_InvalidArgumentReachesNoHardware :
    ∀ op ∈ [ClientOp.setSensorInputThreshold 9 0x40, .getSensorInputThreshold 0, .setMultipleTouchConfiguration true 5],
      op.argsOk = false ∧ (asked [op]).inputs.ops = [op] ∧ (asked [op]).eng.stage = .idle ∧
        (asked [op]).eng.phase = .idle ∧ (asked [op]).client = .idle := by
  intro op hi
  simp only [List.mem_cons, List.not_mem_nil, or_false] at hi
  rcases hi with rfl | rfl | rfl <;> exact ⟨rfl, rfl, rfl, rfl, rfl⟩

/-- Channels 1 and 8, the ends of the range. -/
theorem test_witness_EachChannelKeepsItsThreshold :
    let s := asked [.setSensorInputThreshold 1 0x40, .setSensorInputThreshold 8 0x20, .getSensorInputThreshold 1]
    refParams.ReferenceTarget ∧ refParams.ThresholdsDistinct ∧ 1 ≤ 8 ∧ 1 ≠ 8 ∧ s.SpiReady ∧ s.client = .idle ∧
      s.inputs.ops = .setSensorInputThreshold 1 0x40 :: .setSensorInputThreshold 8 0x20 :: .getSensorInputThreshold 1 :: [] ∧
      s.NoSlotFault ∧ s.tgt.rf.wf refParams := by
  refine ⟨fun _ => ⟨rfl, rfl, rfl, rfl⟩, ?_, by decide, by decide, (test_witness_spiReady _).1, rfl, rfl,
    (test_witness_spiReady _).2.2.2.2, ⟨.nil, nofun⟩⟩
  intro c d h1 h2 h3 h4 h
  have h := congrArg BitVec.toNat h
  simp only [refParams, BitVec.toNat_ofNat] at h
  omega

theorem test_witness_GetSensorInputsWithNothingLatched :
    refParams.ReferenceTarget ∧ (asked [.getSensorInputs]).SpiReady ∧ (asked [.getSensorInputs]).client = .idle ∧
      (asked [.getSensorInputs]).inputs.ops = .getSensorInputs :: [] ∧ (asked [.getSensorInputs]).NoSlotFault ∧
      (asked [.getSensorInputs]).tgt.rf.read refParams refParams.aSensorInputStatus = 0x00 :=
  ⟨fun _ => ⟨rfl, rfl, rfl, rfl⟩, (test_witness_spiReady _).1, rfl, rfl, (test_witness_spiReady _).2.2.2.2, by decide⟩

/-- M2: a touch is latched. -/
theorem test_witness_GetSensorInputsClearsTheInterrupt :
    let s := { asked [.getSensorInputs] with tgt := { knownTarget with rf := ⟨true, [(0x00, 0x01), (0x03, 0x05)]⟩ } }
    refParams.ReferenceTarget ∧ s.SpiReady ∧ s.client = .idle ∧ s.inputs.ops = .getSensorInputs :: [] ∧
      s.NoSlotFault ∧ s.tgt.rf.wf refParams ∧ s.tgt.rf.read refParams refParams.aSensorInputStatus ≠ 0x00 ∧
      (0x03 : Byte) ≠ refParams.aMainControl :=
  ⟨fun _ => ⟨rfl, rfl, rfl, rfl⟩, ⟨rfl, rfl, rfl, rfl, rfl, rfl, rfl⟩, rfl, rfl, nofun, by decide, by decide,
    by decide⟩

theorem test_witness_ErrorEndsTheClientOperation :
    ∀ c ∈ [ClientTask.single, .status, .control 0x05, .clear 0x05, .configure [(0x00, 0x00)]],
      (answered c (.err (.transportError 9))).eng.stage = .idle ∧ (answered c (.err (.transportError 9))).eng.phase = .idle ∧
        (answered c (.err (.transportError 9))).client ≠ .idle ∧
        (answered c (.err (.transportError 9))).response = some (.err (.transportError 9)) := by
  intro c hc
  simp only [List.mem_cons, List.not_mem_nil, or_false] at hc
  rcases hc with rfl | rfl | rfl | rfl | rfl <;> exact ⟨rfl, rfl, nofun, rfl⟩

theorem test_witness_DefaultConfigurationFollowsInitialisation :
    ((answered (.configure [(0x2A, 0x80)]) .ok).SpiReady ∧
        (answered (.configure [(0x2A, 0x80)]) .ok).client = .configure [(0x2A, 0x80)] ∧
        (answered (.configure [(0x2A, 0x80)]) .ok).response = some .ok) ∧
      (let s : State := { i2cReady with client := .configure [(0x2A, 0x80)], response := some .ok }
      s.eng.transport = .i2c ∧ s.eng.stage = .idle ∧ s.eng.phase = .idle ∧ s.client = .configure [(0x2A, 0x80)] ∧
        s.response = some .ok) ∧
      (answered (.configure []) .ok).eng.stage = .idle ∧ (answered (.configure []) .ok).eng.phase = .idle ∧
      (answered (.configure []) .ok).client = .configure [] ∧ (answered (.configure []) .ok).response = some .ok :=
  ⟨⟨⟨rfl, rfl, rfl, rfl, rfl, rfl, rfl⟩, rfl, rfl⟩, ⟨rfl, rfl, rfl, rfl, rfl⟩, rfl, rfl, rfl, rfl⟩

/-- One pin asked for in both forms; and an initialisation with two pins, which leaves two. -/
theorem test_witness_InitSpiWithOnePinHasNoMove :
    ((asked [.initSpi 7 7]).eng.stage = .idle ∧ (asked [.initSpi 7 7]).eng.phase = .idle ∧
        (asked [.initSpi 7 7]).client = .idle ∧ (asked [.initSpi 7 7]).inputs.ops = .initSpi 7 7 :: [] ∧
        (asked [.request (.initSpi 7 7)]).inputs.ops = .request (.initSpi 7 7) :: []) ∧
      ∃ t, step { State.reset with inputs := ⟨[.request (.initSpi 7 8)], [], [], []⟩ } = .next t ∧
        State.reset.eng.transport ≠ .spi ∧ t.eng.transport = .spi :=
  ⟨⟨rfl, rfl, rfl, rfl, rfl⟩, _, rfl, by decide, rfl⟩

theorem test_witness_WriteAllThresholdsIsRefused :
    (asked [.writeAllThresholds]).eng.stage = .idle ∧ (asked [.writeAllThresholds]).eng.phase = .idle ∧
      (asked [.writeAllThresholds]).client = .idle ∧
      (asked [.writeAllThresholds]).inputs.ops = .writeAllThresholds :: [] := by decide

/-- A write with each of its four slots the first to fail, a read, and an I2C write. -/
theorem test_witness_FailureReportReachesTheCaller :
    let s (f : List (Option FaultReport)) := failing f (asked [.request (.writeRegister 0xFF 0x00)])
    let u : State := { i2cReady with inputs := ⟨[.request (.writeRegister 0x00 0xFF)], [], [some 9], []⟩ }
    ((s [some 7, some 9]).SpiReady ∧ (s [some 7]).client = .idle ∧
        (s [some 7]).inputs.ops = .request (.writeRegister 0xFF 0x00) :: []) ∧
      ((asked [.request (.readRegister 0x00)]).SpiReady ∧ (asked [.request (.readRegister 0x00)]).client = .idle ∧
        (asked [.request (.readRegister 0x00)]).inputs.ops = .request (.readRegister 0x00) :: []) ∧
      slotFailure refParams (s [some 7, some 9]) = some 7 ∧
      (slotFailure refParams (s [none, some 7]) = none ∧ slotFailure refParams (useSlot (s [none, some 7])) = some 7) ∧
      (slotFailure refParams (useSlot (s [none, none, some 7])) = none ∧
        slotFailure refParams (useSlot (useSlot (s [none, none, some 7]))) = some 7) ∧
      (slotFailure refParams (useSlot (useSlot (s [none, none, none, some 7]))) = none ∧
        slotFailure refParams (useSlot (useSlot (useSlot (s [none, none, none, some 7])))) = some 7) ∧
      u.eng.transport = .i2c ∧ u.eng.stage = .idle ∧ u.eng.phase = .idle ∧ u.client = .idle ∧
      u.inputs.ops = .request (.writeRegister 0x00 0xFF) :: [] ∧ i2cFailure u = some 9 :=
  ⟨⟨⟨rfl, rfl, rfl, rfl, rfl, rfl, rfl⟩, rfl, rfl⟩, ⟨⟨rfl, rfl, rfl, rfl, rfl, rfl, rfl⟩, rfl, rfl⟩, rfl, ⟨rfl, rfl⟩,
    ⟨rfl, rfl⟩, ⟨rfl, rfl⟩, rfl, rfl, rfl, rfl, rfl, rfl⟩

end Sys2Proof.Tests
end

section
/-! PROOFS. 10_state: the register file as data (R35), the chip environment (R44), the Device Handle (R21 to R25),
and the invariants of the initiator and of the machine, at construction and through every step. -/

namespace Sys2Proof.Machine

/-! ### The register file (R35) -/

/-- In a list with rising addresses, membership is what `cellsGet` finds. -/
theorem mem_cells_iff_cellsGet {l : List Host.Cell} (h : l.Pairwise (fun c d => c.1 < d.1)) {c : Host.Cell} :
    c ∈ l ↔ cellsGet c.1 l = some c.2 := by
  induction l with
  | nil => simp [cellsGet]
  | cons d tail ih =>
    obtain ⟨hd, ht⟩ := List.pairwise_cons.mp h
    by_cases e : d.1 = c.1
    · have hc : c ∉ tail := fun hc => absurd (hd c hc) (by omega)
      simp only [cellsGet, e, if_true, List.mem_cons, hc, or_false, Option.some.injEq]
      exact ⟨fun k => k ▸ rfl, fun k => Prod.ext e.symm k.symm⟩
    · have hc : c ≠ d := fun k => e (k ▸ rfl)
      simp [cellsGet, e, hc, ih ht]

/-- In canonical form, the entries are the registers that read as other than their unlisted value. -/
theorem RegFile.wf.mem_cells_iff_read {P : Params} {rf : RegFile} (h : rf.wf P) {c : Host.Cell} :
    c ∈ rf.cells ↔ c.1 < 256 ∧ c.2 ≠ P.unlisted rf.pulsed (BitVec.ofNat 8 c.1) ∧
      rf.read P (BitVec.ofNat 8 c.1) = c.2 := by
  obtain ⟨hs, hv⟩ := h
  have read_eq (hc : c.1 < 256) : rf.read P (BitVec.ofNat 8 c.1) =
      (cellsGet c.1 rf.cells).getD (P.unlisted rf.pulsed (BitVec.ofNat 8 c.1)) := by
    simp [RegFile.read, Nat.mod_eq_of_lt hc]
  constructor
  · intro hc
    obtain ⟨hlt, hne⟩ := hv c hc
    exact ⟨hlt, hne, by rw [read_eq hlt, (mem_cells_iff_cellsGet hs).mp hc, Option.getD_some]⟩
  · rintro ⟨hlt, hne, hr⟩
    rw [read_eq hlt] at hr
    rw [mem_cells_iff_cellsGet hs]
    cases hg : cellsGet c.1 rf.cells with
    | none => exact absurd (by simpa [hg] using hr.symm) hne
    | some v => simpa [hg] using hr

/-- Lists of cells with rising addresses and the same entries are equal. -/
theorem cells_eq_of_mem_iff {l m : List Host.Cell} (hl : l.Pairwise (fun c d => c.1 < d.1))
    (hm : m.Pairwise (fun c d => c.1 < d.1)) (h : ∀ c, c ∈ l ↔ c ∈ m) : l = m :=
  have : Std.Irrefl fun c d : Host.Cell => c.1 < d.1 := ⟨fun _ => Nat.lt_irrefl _⟩
  have : Std.Antisymm fun c d : Host.Cell => c.1 < d.1 := ⟨fun _ _ h k => absurd h (Nat.lt_asymm k)⟩
  hl.eq_of_mem_iff hm h

/-- Settles O26: in canonical form the entries of the list are determined by the reads, and so is their order. -/
theorem equalRegisterFilesAreEqualData : Obligations.EqualRegisterFilesAreEqualData := by
  unfold Obligations.EqualRegisterFilesAreEqualData
  intro P x y hx hy hp hr
  have hc : x.cells = y.cells := cells_eq_of_mem_iff hx.1 hy.1 fun c => by
    rw [RegFile.wf.mem_cells_iff_read hx, RegFile.wf.mem_cells_iff_read hy, hp, hr]
  cases x
  cases y
  exact congr (congrArg RegFile.mk hp) hc

/-! ### The chip environment (R44) -/

section EnvTurn
variable {P : Params} {s : State}

/-- The chip has no turn while a window is open or the reset pin is high (R44, R287). -/
theorem envTurn_eq_self (h : s.eng.cs = .low ∨ s.eng.rst = .high) : envTurn P s = s := by
  unfold envTurn
  rw [if_pos h]

/-- The register file after the chip's turn, where it has one (R44). -/
theorem envTurn_rf (hc : s.eng.cs ≠ .low) (hr : s.eng.rst ≠ .high) :
    (envTurn P s).tgt.rf = applyChanges P (s.inputs.envChanges.headD []) s.tgt.rf := by
  unfold envTurn
  rw [if_neg (by simp [hc, hr])]

/-- One change of a register in `ENV_WRITES` is a write of it (R44). -/
theorem applyChanges_single {a : Byte} (h : P.envWrites a = true) (v : Byte) (rf : RegFile) :
    applyChanges P [(a, v)] rf = rf.write P a v := by
  simp [applyChanges, h]

end EnvTurn

/-- Settles O27: the chip's turn changes the register file only, by writes in `ENV_WRITES`. -/
theorem environmentChangesOnlyItsRegisters : Obligations.EnvironmentChangesOnlyItsRegisters := by
  unfold Obligations.EnvironmentChangesOnlyItsRegisters
  intro P s
  obtain ⟨rf, ht⟩ := envTurn_tgt P s
  refine ⟨fun h => envTurn_eq_self (.inl h), fun h => envTurn_eq_self (.inr h), envTurn_eng P s, envTurn_trace P s,
    by rw [ht], by rw [ht], by rw [ht], by rw [ht], fun a ha => envTurn_read_other ha, ?_⟩
  intro a v rest ha hc hr hwf hch
  rw [envTurn_rf (by simp [hc]) hr, hch, List.headD_cons, applyChanges_single ha]
  exact RegFile.read_write_same hwf a v

/-! ### What a step can do, continued -/

section Moves
variable {P : Params} {s t : State}

/-- The machine's step is `stepWith` at the machine's parameters. -/
theorem step_eq_stepWith (s : State) : step s = stepWith Config.params s := by
  cases hf : fetch s with
  | none => simp only [step, stepWith, hf]
  | some i => simp only [step, stepWith, hf, exec_eq, settleOutcome]

/-- Everything the acceptance of a request can do (R190). -/
inductive Accepted (P : Params) (s : State) : State → Prop
  | initSpi (cs rst : PinId) : s.eng.transport = .none → Accepted P s (setupSpi P cs rst s.takeResponse)
  | initI2c (adr : I2cAddr) (rst : PinId) : s.eng.transport = .none → Accepted P s (setupI2c adr rst s.takeResponse)
  /-- A lifecycle error (R243, R244). -/
  | rejected (c : ErrorCause) :
      c = .notInitialised ∧ s.eng.transport = .none ∨ c = .alreadyInitialised ∧ s.eng.transport ≠ .none →
      Accepted P s (s.takeResponse.raise c)
  /-- A register request for the I2C delegate (R200). -/
  | i2c (op : OpKind) (a d : Byte) : s.eng.transport = .i2c → op = .rd ∨ op = .wr →
      Accepted P s (s.takeResponse.onEngine fun E => { E with op := op, addr := a, data := d, stage := .i2c })
  /-- A register request under SPI: the set-pointer frame is loaded (R190). -/
  | spi (op : OpKind) (a d : Byte) : s.eng.transport = .spi → op = .rd ∨ op = .wr →
      Accepted P s (loadFrame (Instr.setptr a).frameReq
        (s.takeResponse.onEngine fun E => { E with op := op, addr := a, data := d, stage := .ptr }))

theorem accept_accepted (P : Params) (q : Request) (s : State) : Accepted P s (accept P q s) := by
  cases ht : s.eng.transport <;> cases q <;>
    simp only [accept, acceptInitSpi, acceptInitI2c, acceptRegister, dispatchTransport, State.takeResponse_eng,
      State.onEngine_eng, ht]
  case none.initSpi cs rst => exact .initSpi cs rst ht
  case none.initI2c adr rst => exact .initI2c adr rst ht
  case i2c.readRegister a => exact .i2c .rd a s.eng.data ht (.inl rfl)
  case i2c.writeRegister a d => exact .i2c .wr a d ht (.inr rfl)
  case spi.readRegister a => exact .spi .rd a s.eng.data ht (.inl rfl)
  case spi.writeRegister a d => exact .spi .wr a d ht (.inr rfl)
  all_goals exact .rejected _ (by simp [ht])

/-- With no frame in progress, raising an error is giving the error as the response. -/
theorem State.raise_eq_finish (hp : s.eng.phase = .idle) (c : ErrorCause) : s.raise c = s.finish (.err c) := by
  unfold State.raise State.finish State.onEngine
  rw [← hp]

theorem i2cFailed_eq_finish (hp : s.eng.phase = .idle) (r : FaultReport) :
    i2cFailed r s =
      ((useI2c s).emit (.i2cFail s.eng.i2cAddress s.eng.addr)).finish (.err (.transportError r)) :=
  State.raise_eq_finish (s := (useI2c s).emit _) hp _

/-- An I2C read emits one event and ends the request (R201). -/
theorem i2cReadStep_ends (P : Params) (hp : s.eng.phase = .idle) :
    ∃ e r, i2cReadStep P s = ((useI2c s).emit e).finish r := by
  unfold i2cReadStep
  split
  · exact ⟨_, _, i2cFailed_eq_finish hp _⟩
  · exact ⟨_, _, rfl⟩

/-- An I2C write emits one event and ends the request (R201). -/
theorem i2cWriteStep_ends (hp : s.eng.phase = .idle) : ∃ e r, i2cWriteStep s = ((useI2c s).emit e).finish r := by
  unfold i2cWriteStep
  split
  · exact ⟨_, _, i2cFailed_eq_finish hp _⟩
  · exact ⟨_, _, rfl⟩

/-- The moves of the stages with what an acceptance and an I2C call do: `StageMove` from a state with no frame in
progress. -/
inductive StageEffect (P : Params) (s : State) : State → Prop
  | wait : s.client = .idle → StageEffect P s s
  | accepted (ops : List ClientOp) (c : ClientTask) (t : State) : s.eng.stage = .idle →
      Accepted P { s with client := c, inputs := { s.inputs with ops := ops } } t → StageEffect P s t
  | done (ops : List ClientOp) (r : Response) :
      StageEffect P s
        { s with
          client := .idle, response := none, results := s.results ++ [r], inputs := { s.inputs with ops := ops } }
  | resetHigh : s.eng.stage = .pins → StageEffect P s (resetHigh P s)
  | resetHold : s.eng.stage = .rstHigh → StageEffect P s (resetHold P s)
  | resetLow : s.eng.stage = .rstHold → StageEffect P s (resetLow s)
  | afterResetSpi : s.eng.stage = .rstLow → s.eng.op = .initSpi → StageEffect P s (afterResetSpi P s)
  | afterResetI2c : s.eng.stage = .rstLow → StageEffect P s (afterResetI2c P s)
  | i2c (e : Event) (r : Response) : s.eng.stage = .i2c → StageEffect P s (((useI2c s).emit e).finish r)

/-- What a stage's step does with no frame in progress. -/
theorem stageStep_effect (hp : s.eng.phase = .idle) (h : stageStep P s = .next t) : StageEffect P s t := by
  cases stageStep_cases h with
  | wait hs hc ho => exact .wait hc
  | ask ops q c hs hc hq => exact .accepted ops c _ hs (accept_accepted P q _)
  | done ops r hs => exact .done ops r
  | resetHigh hs => exact .resetHigh hs
  | resetHold hs => exact .resetHold hs
  | resetLow hs => exact .resetLow hs
  | afterResetSpi hs ho => exact .afterResetSpi hs ho
  | afterResetI2c hs ho => exact .afterResetI2c hs
  | i2cRead hs ho =>
    obtain ⟨e, r, k⟩ := i2cReadStep_ends P hp
    exact k ▸ .i2c e r hs
  | i2cWrite hs ho =>
    obtain ⟨e, r, k⟩ := i2cWriteStep_ends hp
    exact k ▸ .i2c e r hs

@[simp] theorem postReset_eng (P : Params) (s : State) : (postReset P s).eng = s.eng := by
  unfold postReset; split <;> rfl

@[simp] theorem postReset_tgt (P : Params) (s : State) : (postReset P s).tgt = s.tgt := by
  unfold postReset; split <;> rfl

@[simp] theorem settle_eng (P : Params) (s : State) : (settle P s).eng = (sequencerMove s).eng := envTurn_eng P _

end Moves

/-! ### The Device Handle (R21 to R25) -/

/-- The two engines have one Device Handle (R21 to R24). -/
def Engine.SameHandle (E F : Engine) : Prop :=
  F.transport = E.transport ∧ F.i2cAddress = E.i2cAddress ∧ F.chipSelectPin = E.chipSelectPin ∧ F.resetPin = E.resetPin

section Handle
variable {P : Params} {s t : State}

theorem Engine.SameHandle.rfl (E : Engine) : E.SameHandle E := ⟨Eq.refl _, Eq.refl _, Eq.refl _, Eq.refl _⟩

theorem Engine.SameHandle.trans {E F G : Engine} (h : E.SameHandle F) (k : F.SameHandle G) : E.SameHandle G := by
  obtain ⟨ht, ha, hc, hr⟩ := h
  obtain ⟨kt, ka, kc, kr⟩ := k
  exact ⟨kt.trans ht, ka.trans ha, kc.trans hc, kr.trans hr⟩

theorem SameOutside.sameHandle (h : SameOutside s t) : s.eng.SameHandle t.eng := by
  obtain ⟨ht, ha, hc, hr, -⟩ := h
  exact ⟨ht, ha, hc, hr⟩

/-- Accepting a request after an initialisation leaves the handle alone (R244). -/
theorem Accepted.sameHandle (h : Accepted P s t) (ht : s.eng.transport ≠ .none) : s.eng.SameHandle t.eng := by
  cases h with
  | initSpi cs rst h0 => exact absurd h0 ht
  | initI2c adr rst h0 => exact absurd h0 ht
  | rejected c hc => exact .rfl s.eng
  | i2c op a d hi ho => exact .rfl s.eng
  | spi op a d hs ho => exact .rfl s.eng

/-- A stage's move after an initialisation leaves the handle alone (R25). -/
theorem StageEffect.sameHandle (m : StageEffect P s t) (ht : s.eng.transport ≠ .none) : s.eng.SameHandle t.eng := by
  cases m with
  | accepted ops c t hs ha => exact ha.sameHandle ht
  | afterResetSpi hs ho => simp [Machine.afterResetSpi, Engine.SameHandle]
  | afterResetI2c hs => simp [Machine.afterResetI2c, Engine.SameHandle]
  | wait | done | resetHigh | resetHold | resetLow | i2c => exact .rfl s.eng

/-- What every step ends with leaves the handle alone. -/
theorem settle_sameHandle (P : Params) (s : State) : s.eng.SameHandle (settle P s).eng := by
  obtain ⟨ht, ha, hc, hr, -⟩ := sequencerMove_eng s
  unfold Engine.SameHandle
  rw [settle_eng]
  exact ⟨ht, ha, hc, hr⟩

/-- After an initialisation every step leaves the handle alone (R25, R257). -/
theorem stepWith_sameHandle (h : stepWith P s = .next t) (ht : s.eng.transport ≠ .none) : s.eng.SameHandle t.eng := by
  obtain ⟨u, rfl, ⟨i, -, rfl⟩ | ⟨-, hp, hu⟩ | ⟨-, -, rfl⟩⟩ := stepWith_cases h
  · exact (sendFrame_sameOutside P i.frameReq s).sameHandle.trans (settle_sameHandle P _)
  · exact ((stageStep_effect hp hu).sameHandle ht).trans (settle_sameHandle P u)
  · exact (frameStep_sameOutside P s).sameHandle.trans (settle_sameHandle P _)

end Handle

/-- Settles O35: only an initialisation accepted with no transport chosen writes the handle. -/
theorem deviceHandleIsWrittenOnce : Obligations.DeviceHandleIsWrittenOnce := by
  unfold Obligations.DeviceHandleIsWrittenOnce
  intro s t h ht
  rw [step_eq_stepWith] at h
  exact stepWith_sameHandle h ht

end Sys2Proof.Machine
end

section
/-! PROOFS. 10_state, continued: the invariants of the initiator and of the machine. -/

namespace Sys2Proof.Machine

/-! ### The initiator's invariant, stage by stage (R28 to R32) -/

/-- The lines of an engine bound to SPI while no window is open and no reset pulse is made (R31, R32), with the byte
index in range. -/
def Engine.LinesAtRest (E : Engine) : Prop := E.transport = .spi ∧ E.cs = .high ∧ E.rst = .low ∧ E.idx ≤ 2

/-- A frame is over, before the sequencer moves: the request has failed, or its stage's frame is complete. -/
def Engine.FrameEnded (E : Engine) : Prop :=
  E.phase = .idle ∧ E.LinesAtRest ∧ (E.stage = .idle ∧ E.op = .none ∨ ∃ f, E.Sending f)

section EngineInv
variable {E : Engine} {f : FrameReq}

/-- The frames of the stages have one or two command bytes. -/
theorem Engine.Sending.len_bounds (h : E.Sending f) : 0 < f.len ∧ f.len ≤ 2 := by
  rcases h with ⟨-, -, rfl⟩ | ⟨-, -, rfl⟩ | ⟨-, -, rfl⟩ | ⟨-, -, rfl⟩ <;> simp [Instr.frameReq]

/-- A frame is sent for a request in progress. -/
theorem Engine.Sending.stage_ne_idle (h : E.Sending f) : E.stage ≠ .idle := by
  rcases h with ⟨hs, -⟩ | ⟨hs, -⟩ | ⟨hs, -⟩ | ⟨hs, -⟩ <;> simp [hs]

/-- An idle engine in its invariant: only the levels of its lines and the byte index matter. -/
theorem Engine.inv_of_idle (hs : E.stage = .idle) (ho : E.op = .none) (hp : E.phase = .idle) (hi : E.idx ≤ 2)
    (hc : E.CsOk) (hr : E.rst = if E.transport = .none then .undriven else .low) : E.Inv := by
  refine ⟨?_, ?_, ⟨hi, ?_, ?_⟩, hc, ?_⟩
  · simp [Engine.StageOk, hs, ho, hp]
  · simp [Engine.BufferOk, Engine.stageFrame, hs]
  · simp [hp]
  · simp [hp]
  · constructor <;> intro ht <;> simp [hr, ht, hs]

/-- At rest, past the pulse and in an I2C call, the reset pin is low unless it was never driven (R32, R286). -/
theorem Engine.Inv.rst_at_rest (h : E.Inv) (hs : E.stage = .idle ∨ E.stage = .rstLow ∨ E.stage = .i2c) :
    E.rst = if E.transport = .none then .undriven else .low := by
  obtain ⟨-, -, -, -, h0, h1⟩ := h
  split
  · exact (h0 ‹_›).1
  · rcases hs with hs | hs | hs <;> simpa [hs] using h1 ‹_›

/-- After the first edge of the pulse the reset pin is high (R285). -/
theorem Engine.Inv.rst_high (h : E.Inv) (hs : E.stage = .rstHigh) : E.rst = .high := by
  obtain ⟨-, -, -, -, h0, h1⟩ := h
  have ht : E.transport ≠ .none := fun k => by simpa [hs] using (h0 k).2
  simpa [hs] using h1 ht

/-- The pulse moves on: the reset pin takes the level of the next stage (R284 to R286). -/
theorem Engine.Inv.pulse (h : E.Inv) {l : Level} {st : Stage}
    (hs : E.stage = .pins ∨ E.stage = .rstHigh ∨ E.stage = .rstHold)
    (hl : l = .high ∧ st = .rstHigh ∨ l = .high ∧ st = .rstHold ∨ l = .low ∧ st = .rstLow) :
    ({ E with rst := l, stage := st } : Engine).Inv := by
  obtain ⟨h1, -, h3, h4, -⟩ := h
  have hk : (E.op = .initSpi ∧ E.transport = .spi ∨ E.op = .initI2c ∧ E.transport = .i2c) ∧ E.phase = .idle := by
    rcases hs with hs | hs | hs <;> simpa [Engine.StageOk, hs] using h1
  have ht : E.transport ≠ .none := by rcases hk with ⟨⟨-, k⟩ | ⟨-, k⟩, -⟩ <;> simp [k]
  rcases hl with ⟨rfl, rfl⟩ | ⟨rfl, rfl⟩ | ⟨rfl, rfl⟩ <;>
    exact ⟨hk, nofun, h3, h4, fun k => absurd k ht, fun _ => rfl⟩

/-- A frame that is loaded for the stage it belongs to (R122). -/
theorem loadFrame_inv {s : State} (hl : s.eng.LinesAtRest) (hs : s.eng.Sending f) : (loadFrame f s).eng.Inv := by
  obtain ⟨ht, hc, hr, hi⟩ := hl
  exact Engine.Sending.inv hs nofun ⟨rfl, rfl, rfl, fun h => if_pos h⟩ ht ⟨hi, nofun, nofun⟩ hr hc

/-- A request that ends with no frame in progress leaves an idle engine (R194). -/
theorem finish_inv {s : State} (h : s.eng.Inv) (hp : s.eng.phase = .idle)
    (hr : s.eng.rst = if s.eng.transport = .none then .undriven else .low) (r : Response) :
    (s.finish r).eng.Inv := by
  obtain ⟨-, -, ⟨hi, -⟩, hc, -⟩ := h
  exact Engine.inv_of_idle rfl rfl hp hi hc hr

/-- The lines between frames (R127). -/
theorem Engine.Inv.linesAtRest (h : E.Inv) (hp : E.phase = .idle) (ht : E.transport = .spi) (hr : E.rst = .low) :
    E.LinesAtRest := by
  obtain ⟨-, -, ⟨hi, -⟩, ⟨-, hc⟩, -⟩ := h
  exact ⟨ht, by simpa [hp, Phase.windowOpen] using hc ht, hr, hi⟩

/-- An idle engine whose lines are at rest. -/
theorem Engine.LinesAtRest.inv (h : E.LinesAtRest) (hs : E.stage = .idle) (ho : E.op = .none)
    (hp : E.phase = .idle) : E.Inv := by
  obtain ⟨ht, hc, hr, hi⟩ := h
  exact Engine.inv_of_idle hs ho hp hi (by simp [Engine.CsOk, ht, hc, hp, Phase.windowOpen]) (by simp [hr, ht])

end EngineInv

section EngineSteps
variable {P : Params} {s t : State}

/-- The sequencer has no move in a state of the invariant: it has moved already (R194). -/
theorem sequencerMove_of_inv (h : s.eng.Inv) : sequencerMove s = s := by
  by_cases hp : s.eng.phase = .idle
  · obtain ⟨h1, -⟩ := h
    apply sequencerMove_of_stage <;> intro hs <;> simp [Engine.StageOk, hs, hp] at h1
  · exact sequencerMove_of_phase hp

/-- The sequencer's move after a frame restores the invariant (R194). -/
theorem Engine.FrameEnded.sequencerMove_inv (h : s.eng.FrameEnded) : (sequencerMove s).eng.Inv := by
  obtain ⟨hp, hl, ⟨hs, ho⟩ | ⟨f, ⟨hs, ho, -⟩ | ⟨hs, ho | ho, -⟩ | ⟨hs, ho, -⟩ | ⟨hs, ho, -⟩⟩⟩ := h
  · rw [sequencerMove_of_inv (hl.inv hs ho hp)]
    exact hl.inv hs ho hp
  all_goals simp only [sequencerMove, hp, hs, ho]
  · exact Engine.LinesAtRest.inv hl rfl rfl hp
  · exact loadFrame_inv hl (.inr (.inr (.inl ⟨rfl, ho, rfl⟩)))
  · exact loadFrame_inv hl (.inr (.inr (.inr ⟨rfl, ho, rfl⟩)))
  · exact Engine.LinesAtRest.inv hl rfl rfl hp
  · exact Engine.LinesAtRest.inv hl rfl rfl hp

theorem Phase.ne_idle_of_windowOpen {p : Phase} (h : p.windowOpen = true) : p ≠ .idle := by
  rintro rfl
  cases h

/-- A command slot that succeeds keeps the byte index in range (R124). -/
theorem Engine.IndexOk.afterCommandByte {E : Engine} (h : E.IndexOk) (hp : E.phase = .command) (hl : E.len ≤ 2) :
    (afterCommandByte E).IndexOk := by
  obtain ⟨-, hi, -⟩ := h
  have hlt := hi hp
  refine ⟨?_, ?_, ?_⟩ <;> simp only [Machine.afterCommandByte]
  · omega
  · split_ifs <;> simp; omega
  · split_ifs <;> simp_all

/-- A command slot that succeeds leaves the window open (R124, R127). -/
theorem afterCommandByte_windowOpen (E : Engine) : (afterCommandByte E).phase.windowOpen = true := by
  unfold afterCommandByte
  dsimp only
  split_ifs <;> rfl

/-- A step of the frame machine keeps the initiator's invariant, or it ends the frame (R128). -/
theorem frameStep_inv (h : s.eng.Inv) (hp : s.eng.phase ≠ .idle) :
    (frameStep P s).eng.Inv ∨ (frameStep P s).eng.FrameEnded := by
  obtain ⟨f, hs, hh, ht, hi, hr, hc⟩ := h.sending hp
  have ⟨_, hlen, _⟩ := hh
  have failed (r : FaultReport) : (failSlot P r (useSlot s)).eng.FrameEnded :=
    ⟨rfl, ⟨ht, rfl, hr, hi.1⟩, .inl ⟨rfl, rfl⟩⟩
  have low (hw : s.eng.phase.windowOpen = true) : s.eng.cs = .low := hc.trans (if_pos hw)
  unfold frameStep
  split
  case h_1 => exact absurd ‹_› hp
  case h_2 =>
    exact .inl (Engine.Sending.inv hs nofun hh ht ⟨Nat.zero_le 2, fun _ => hlen ▸ hs.len_bounds.1, nofun⟩ hr rfl)
  case h_3 hph =>
    unfold commandStep
    split
    · exact .inr (failed _)
    · have ho := afterCommandByte_windowOpen s.eng
      exact .inl (Engine.Sending.inv hs (Phase.ne_idle_of_windowOpen ho) hh ht
        (hi.afterCommandByte hph (hlen ▸ hs.len_bounds.2)) hr ((low (by rw [hph]; rfl)).trans (if_pos ho).symm))
  case h_4 hph =>
    unfold replyStep
    split
    · exact .inr (failed _)
    · exact .inl (Engine.Sending.inv hs nofun hh ht ⟨hi.1, nofun, nofun⟩ hr (low (by rw [hph]; rfl)))
  case h_5 => exact .inr ⟨rfl, ⟨ht, rfl, hr, hi.1⟩, .inr ⟨f, hs⟩⟩

/-- A request is accepted from and into the invariant (R190). -/
theorem Accepted.inv (m : Accepted P s t) (h : s.eng.Inv) (hs : s.eng.stage = .idle) : t.eng.Inv := by
  have hr := h.rst_at_rest (.inl hs)
  have ⟨h1, _, h3, h4, _⟩ := h
  have hp : s.eng.phase = .idle := by simp_all [Engine.StageOk]
  cases m with
  | initSpi cs rst ht =>
    rw [if_pos ht] at hr
    have hc : Level.high = if s.eng.phase.windowOpen then .low else .high := by rw [hp]; rfl
    exact ⟨⟨.inl ⟨rfl, rfl⟩, hp⟩, nofun, h3, ⟨fun k => absurd rfl k, fun _ => hc⟩, nofun, fun _ => hr⟩
  | initI2c adr rst ht =>
    rw [if_pos ht] at hr
    exact ⟨⟨.inr ⟨rfl, rfl⟩, hp⟩, nofun, h3, ⟨fun _ => h4.1 (by simp [ht]), nofun⟩, nofun, fun _ => hr⟩
  | rejected c hc =>
    rw [State.raise_eq_finish (s := s.takeResponse) hp]
    exact finish_inv h hp hr _
  | i2c op a d ht hop =>
    rw [if_neg (by simp [ht])] at hr
    exact ⟨⟨hop, ht, hp⟩, nofun, h3, h4, fun k => by simp [ht] at k, fun _ => hr⟩
  | spi op a d ht hop =>
    rw [if_neg (by simp [ht])] at hr
    exact loadFrame_inv (h.linesAtRest hp ht hr) (.inr (.inl ⟨rfl, hop, rfl⟩))

/-- A stage's move keeps the initiator's invariant (R128, R190 to R201, R282 to R289). -/
theorem StageEffect.eng_inv (m : StageEffect P s t) (h : s.eng.Inv) (hp : s.eng.phase = .idle) : t.eng.Inv := by
  cases m with
  | wait | done => exact h
  | accepted ops c t hs ha => exact ha.inv h hs
  | resetHigh hs => exact h.pulse (.inl hs) (.inl ⟨rfl, rfl⟩)
  | resetHold hs => exact h.pulse (.inr (.inl hs)) (.inr (.inl ⟨h.rst_high hs, rfl⟩))
  | resetLow hs => exact h.pulse (.inr (.inr hs)) (.inr (.inr ⟨rfl, rfl⟩))
  | afterResetSpi hs ho =>
    have ⟨h1, _⟩ := h
    have ht : s.eng.transport = .spi := by simp_all [Engine.StageOk]
    have hr : s.eng.rst = .low := by simpa [ht] using h.rst_at_rest (.inr (.inl hs))
    unfold Machine.afterResetSpi
    refine loadFrame_inv ?_ (.inl ⟨rfl, ?_, rfl⟩) <;> simp only [State.onEngine_eng, postReset_eng]
    · exact h.linesAtRest hp ht hr
    · exact ho
  | afterResetI2c hs =>
    unfold Machine.afterResetI2c
    rw [State.finish_eng, postReset_eng]
    exact finish_inv h hp (h.rst_at_rest (.inr (.inl hs))) .ok
  | i2c e r hs => exact finish_inv h hp (h.rst_at_rest (.inr (.inr hs))) r

/-- One wire event keeps the initiator's invariant, inside a window too. -/
theorem eventStep_inv (h : s.eng.Inv) (hst : eventStep P s = .next t) : t.eng.Inv := by
  obtain ⟨u, rfl, ⟨hp, hu⟩ | ⟨hp, rfl⟩⟩ := eventStep_cases hst
  · have hi : u.eng.Inv := (stageStep_effect hp hu).eng_inv h hp
    rw [settle_eng, sequencerMove_of_inv hi]
    exact hi
  · rw [settle_eng]
    rcases frameStep_inv (P := P) h hp with hi | he
    · rw [sequencerMove_of_inv hi]
      exact hi
    · exact he.sequencerMove_inv

end EngineSteps

/-- Settles O31: a stage's move keeps the invariant, and a frame event keeps it or ends the frame, whereupon the
sequencer restores it. -/
theorem everyEventKeepsTheEngineInvariant : Obligations.EveryEventKeepsTheEngineInvariant := by
  unfold Obligations.EveryEventKeepsTheEngineInvariant
  intro P s t h hst
  exact eventStep_inv h hst

/-! ### The target between windows (R35 to R39) -/

/-- The target's part of the machine's invariant: no window open, the register file in canonical form, and no pointer
without a known parser. -/
def Target.AtRest (P : Params) (T : Target) : Prop :=
  T.ps = .idle ∧ T.rf.wf P ∧ (T.ptrValid = true → T.known = true)

section Target
variable {P : Params} {T : Target}

theorem Target.Refused.atRest (h : T.Refused) (hw : T.rf.wf P) : T.AtRest P := by
  obtain ⟨-, hv, -, hp⟩ := h
  exact ⟨hp, hw, fun k => by simp [hv] at k⟩

theorem tgtSlots_wf (h : T.rf.wf P) (m : List Byte) : (tgtSlots P m T).rf.wf P := by
  induction m generalizing T with
  | nil => exact h
  | cons b m ih => exact ih (tgtSlot_wf h b)

/-- After any window a valid pointer means a known parser (R155, R160). -/
theorem window_known_of_ptrValid {m : List Byte} (h : (targetWindow P m T).ptrValid = true) :
    (targetWindow P m T).known = true := by
  have complete {op : Opcode} (hp : (tgtSlots P m (tgtCsLow T)).ps = .done op) (hk : op = .rstif ∨ T.known = true) :
      (targetWindow P m T).known = true := by
    obtain ⟨-, hd, -⟩ := tgtCsHigh_done P hp
    obtain ⟨ht, -⟩ := tgtSlots_known_mark P m (tgtCsLow T)
    rw [targetWindow, hd, ht, ite_eq_left_iff]
    exact hk.resolve_left
  rcases window_cases P T m with ⟨-, hp⟩ | ⟨h1, -, hp⟩ | ⟨h1, -, -, hp⟩ | ⟨h1, -, -, hp⟩ | ⟨-, -, -, -, hi, hd⟩
  · exact complete hp (.inl rfl)
  · exact complete hp (.inr h1)
  · exact complete hp (.inr h1)
  · exact complete hp (.inr h1)
  · obtain ⟨-, hv, -⟩ := tgtCsHigh_refused P hi hd
    exact absurd (hv.symm.trans h) nofun

/-- A whole window leaves the target at rest (R155). -/
theorem window_atRest (h : T.rf.wf P) (m : List Byte) : (targetWindow P m T).AtRest P :=
  ⟨tgtCsHigh_idle P _, tgtCsHigh_wf (tgtSlots_wf (T := tgtCsLow T) h m), window_known_of_ptrValid⟩

/-- A failed window leaves the target at rest (R131, R160). -/
theorem failedWindow_atRest (h : T.rf.wf P) (d : Option Byte) : (failedWindow P d T).AtRest P :=
  (failedWindow_refused P d T).atRest (tgtCsHigh_wf (tgtXferFail_wf h d))

/-- The hardware reset leaves the target at rest (R287). -/
theorem tgtHardReset_atRest (P : Params) (T : Target) : (tgtHardReset P T).AtRest P :=
  ⟨rfl, tgtHardReset_wf P T, nofun⟩

end Target

section MachineSteps
variable {P : Params} {s t : State}

/-- A command's frame leaves the target at rest. -/
theorem sendFrame_atRest (h : s.tgt.rf.wf P) (i : Instr) : (sendFrame P i.frameReq s).tgt.AtRest P := by
  rcases sendFrame_tgt P i s with k | k | ⟨c, k⟩ <;> rw [k]
  · exact failedWindow_atRest (T := tgtCsLow s.tgt) h _
  · exact failedWindow_atRest (tgtSlot_wf (T := tgtCsLow s.tgt) h _) _
  · exact window_atRest h _

/-- Accepting a request leaves the target as it is: a `CsHigh` with no window open has no effect (R161). -/
theorem Accepted.tgt_eq (m : Accepted P s t) (h : s.tgt.ps = .idle) : t.tgt = s.tgt := by
  cases m with
  | initSpi cs rst ht => exact tgtCsHigh_of_idle P h
  | initI2c | rejected | i2c | spi => rfl

/-- A stage's move leaves the target at rest. -/
theorem StageEffect.atRest (m : StageEffect P s t) (h : s.tgt.AtRest P) : t.tgt.AtRest P := by
  cases m with
  | wait | done | resetHold | resetLow | i2c => exact h
  | accepted ops c t hs ha => exact ha.tgt_eq h.1 ▸ h
  | resetHigh hs => exact tgtHardReset_atRest P s.tgt
  | afterResetSpi hs ho => simpa [Machine.afterResetSpi] using h
  | afterResetI2c hs => simpa [Machine.afterResetI2c] using h

/-- What every step ends with leaves the target at rest (R44). -/
theorem settle_atRest (h : s.tgt.AtRest P) : (settle P s).tgt.AtRest P := by
  obtain ⟨rf, k⟩ := envTurn_tgt P (sequencerMove s)
  have hw : (settle P s).tgt.rf.wf P := envTurn_wf (by simpa using h.2.1)
  rw [settle, k, sequencerMove_tgt] at hw ⊢
  exact ⟨h.1, hw, h.2.2⟩

/-! ### The response channel (R204) and the phases between steps -/

/-- An idle engine has given its response. -/
def State.Answered (s : State) : Prop := s.eng.stage = .idle → s.response ≠ none

/-- An accepted request is served, or answered at once (R190). -/
theorem Accepted.answered (m : Accepted P s t) : t.Answered := by
  cases m with
  | rejected c hc => exact fun _ => nofun
  | initSpi | initI2c | i2c | spi => exact nofun

/-- After a stage's move the requester has nothing in progress, or its request is served or answered (R204). -/
theorem StageEffect.clientOk (m : StageEffect P s t) : t.ClientOk := by
  cases m with
  | wait hc => exact fun k => absurd hc k
  | done => exact fun k => absurd rfl k
  | accepted ops c t hs ha => exact fun _ => ha.answered
  | resetHigh | resetHold | resetLow | afterResetSpi => exact fun _ => nofun
  | afterResetI2c | i2c => exact fun _ _ => nofun

/-- The sequencer answers a request that it ends (R194). -/
theorem sequencerMove_answered (h : s.Answered) : (sequencerMove s).Answered := by
  unfold sequencerMove
  split
  · exact nofun
  · exact nofun
  · exact fun _ => nofun
  · exact fun _ => nofun
  · exact fun _ => nofun
  · exact h

/-- The phases of an engine with no window in progress (R127). -/
theorem sequencerMove_phase (h : s.eng.phase = .idle ∨ s.eng.phase = .loaded) :
    (sequencerMove s).eng.phase = .idle ∨ (sequencerMove s).eng.phase = .loaded := by
  unfold sequencerMove
  split
  · exact .inr rfl
  · exact .inr rfl
  all_goals exact h

/-- A stage's move opens no window: at most it loads a frame. -/
theorem StageEffect.phase (m : StageEffect P s t) (hp : s.eng.phase = .idle) :
    t.eng.phase = .idle ∨ t.eng.phase = .loaded := by
  cases m with
  | accepted ops c t hs ha =>
    cases ha with
    | spi => exact .inr rfl
    | rejected => exact .inl rfl
    | initSpi | initI2c | i2c => exact .inl hp
  | afterResetSpi => exact .inr rfl
  | afterResetI2c => exact .inl (by simpa [Machine.afterResetI2c] using hp)
  | wait | done | resetHigh | resetHold | resetLow | i2c => exact .inl hp

/-! ### One whole window (R129) -/

/-- The two formats of a command's frame (R90, R122). -/
theorem frameReq_format (i : Instr) :
    (∃ c0 c1, i.frameReq = ⟨c0, c1, 2, 0⟩) ∨ ∃ c0 c1, i.frameReq = ⟨c0, c1, 1, 1⟩ := by
  cases i with
  | rstif | setptr | wrptr => exact .inl ⟨_, _, rfl⟩
  | rdptr => exact .inr ⟨_, _, rfl⟩

/-- Everything a command's frame can do to the initiator: a slot fails, which is answered with its report, or a frame
of either format is complete (R129, R131). -/
theorem sendFrame_eng (P : Params) (i : Instr) (s : State) :
    (∃ k r, k ≤ 1 ∧ (sendFrame P i.frameReq s).eng = s.eng.afterFail i.frameReq k ∧
        (sendFrame P i.frameReq s).response = some (.err (.transportError r))) ∨
      (∃ c0 c1, (sendFrame P i.frameReq s).eng = s.eng.afterF2 c0 c1) ∨
      ∃ c0 v, (sendFrame P i.frameReq s).eng = s.eng.afterF1r c0 v := by
  rcases slots_cases P s with ⟨r, h⟩ | ⟨h0, r, h1⟩ | ⟨h0, h1⟩ <;>
    rcases frameReq_format i with ⟨c0, c1, hf⟩ | ⟨c0, c1, hf⟩ <;> rw [hf]
  · exact .inl ⟨0, r, by decide, by rw [sendFrame_fail0 P _ s (.inr rfl) h]; exact ⟨rfl, rfl⟩⟩
  · exact .inl ⟨0, r, by decide, by rw [sendFrame_fail0 P _ s (.inl rfl) h]; exact ⟨rfl, rfl⟩⟩
  · exact .inl ⟨1, r, by decide, by rw [sendFrame_f2_fail1 P c0 c1 s h0 h1]; exact ⟨rfl, rfl⟩⟩
  · exact .inl ⟨1, r, by decide, by rw [sendFrame_f1r_fail1 P c0 c1 s h0 h1]; exact ⟨rfl, rfl⟩⟩
  · exact .inr (.inl ⟨c0, c1, congrArg State.eng (sendFrame_f2 P c0 c1 s h0 h1)⟩)
  · exact .inr (.inr ⟨c0, _, congrArg State.eng (sendFrame_f1r P c0 c1 s h0 h1)⟩)

/-- A loaded command's frame ends with the frame over at the initiator, and answered if its request ended with it
(R129, R131). -/
theorem sendFrame_ended (P : Params) {i : Instr} (h : s.eng.Inv) (hp : s.eng.phase = .loaded) :
    (sendFrame P i.frameReq s).eng.FrameEnded ∧ (sendFrame P i.frameReq s).Answered := by
  obtain ⟨f, hs, -, ht, -, hr, -⟩ := h.sending (by simp [hp])
  unfold State.Answered
  rcases sendFrame_eng P i s with ⟨k, r, hk, he, hresp⟩ | ⟨c0, c1, he⟩ | ⟨c0, v, he⟩ <;> rw [he]
  · exact ⟨⟨rfl, ⟨ht, rfl, hr, Nat.le_succ_of_le hk⟩, .inl ⟨rfl, rfl⟩⟩, fun _ => by simp [hresp]⟩
  · exact ⟨⟨rfl, ⟨ht, rfl, hr, Nat.le_refl 2⟩, .inr ⟨f, hs⟩⟩, fun k => absurd k hs.stage_ne_idle⟩
  · exact ⟨⟨rfl, ⟨ht, rfl, hr, Nat.le_succ 1⟩, .inr ⟨f, hs⟩⟩, fun k => absurd k hs.stage_ne_idle⟩

/-! ### The machine's invariant -/

/-- What every step ends with restores the machine's invariant. -/
theorem settle_inv (he : (sequencerMove s).eng.Inv) (hp : s.eng.phase = .idle ∨ s.eng.phase = .loaded)
    (hc : (sequencerMove s).ClientOk) (ht : s.tgt.AtRest P) : (settle P s).Inv P := by
  obtain ⟨hps, hwf, hk⟩ := settle_atRest ht
  refine ⟨?_, ?_, ⟨?_, hps⟩, hwf, hk⟩
  · rwa [settle_eng]
  · simpa [settle, State.ClientOk] using hc
  · simpa using sequencerMove_phase hp

/-- Every step keeps the machine's invariant. -/
theorem stepWith_inv (h : s.Inv P) (hst : stepWith P s = .next t) : t.Inv P := by
  obtain ⟨he, -, ⟨hph, hps⟩, hwf, hk⟩ := h
  obtain ⟨u, rfl, ⟨i, hf, rfl⟩ | ⟨-, hp, hu⟩ | ⟨hf, hp, -⟩⟩ := stepWith_cases hst
  · obtain ⟨hend, hans⟩ := sendFrame_ended P (i := i) he (fetch_loaded hf)
    exact settle_inv hend.sequencerMove_inv (.inl hend.1) (fun _ => sequencerMove_answered hans)
      (sendFrame_atRest hwf i)
  · have m := stageStep_effect hp hu
    have hi : u.eng.Inv := m.eng_inv he hp
    have hq := sequencerMove_of_inv hi
    exact settle_inv (hq.symm ▸ hi) (m.phase hp) (hq.symm ▸ m.clientOk) (m.atRest ⟨hps, hwf, hk⟩)
  · obtain ⟨i, hi, -⟩ := he.fetch (hph.resolve_left hp)
    exact absurd (hf.symm.trans hi) nofun

end MachineSteps

/-- Settles O30: the parts of the invariant, each kept by a whole window and by a stage's move, and restored by what a
step ends with. -/
theorem everyStepKeepsTheMachineInvariant : Obligations.EveryStepKeepsTheMachineInvariant := by
  unfold Obligations.EveryStepKeepsTheMachineInvariant
  intro s t h hst
  rw [step_eq_stepWith] at hst
  exact stepWith_inv h hst

/-- The invariant at construction, for every value of the parameters. -/
theorem reset_inv (P : Params) : State.reset.Inv P :=
  ⟨Engine.inv_of_idle rfl rfl rfl (Nat.zero_le 2) ⟨fun _ => rfl, nofun⟩ rfl, fun h => absurd rfl h, ⟨.inl rfl, rfl⟩,
    RegFile.wf_nil P false, nofun⟩

theorem reset_clean : State.reset.Clean := ⟨rfl, nofun, nofun, nofun, ⟨nofun, nofun⟩⟩

/-- Settles O29: nothing is bound, asked or pointed at. -/
theorem constructionMeetsTheInvariant : Obligations.ConstructionMeetsTheInvariant := by
  unfold Obligations.ConstructionMeetsTheInvariant
  exact ⟨reset_inv Config.params, reset_clean⟩

end Sys2Proof.Machine
end

section
/-! PROOFS. 20_memory: what a register write changes (R64), and that the two transports never mix (R77). -/

namespace Sys2Proof.Machine

/-! ### Writing one register (R64) -/

section MemWrite
variable {P : Params} {T : Target}

/-- Where a register is implemented and writable, the byte written is stored (R64). -/
theorem storedByte_of_writable {a : Byte} (hi : P.implemented a = true) (hw : P.writable a = true) (v : Byte) :
    storedByte P T a v = v := by
  simp [storedByte, hi, hw]

/-- A write stores the byte written or leaves the old one (R64). -/
theorem storedByte_eq_or (P : Params) (T : Target) (a v : Byte) :
    storedByte P T a v = v ∨ storedByte P T a v = T.rf.read P a := by
  unfold storedByte drawEither
  split_ifs
  · exact .inl rfl
  · exact .inl rfl
  · exact .inr rfl

/-- The written register holds the stored byte (R64). -/
theorem memWrite_read_same (h : T.rf.wf P) (a v : Byte) :
    (memWrite P a v T).rf.read P a = storedByte P T a v :=
  RegFile.read_write_same h a _

theorem memWrite_read_other {a b : Byte} (h : b ≠ a) (v : Byte) :
    (memWrite P a v T).rf.read P b = T.rf.read P b :=
  RegFile.read_write_other P T.rf h _

/-- In the reference target every write stores its byte (R64, D17). -/
theorem storedByte_of_reference (h : P.ReferenceTarget) (T : Target) (a v : Byte) :
    storedByte P T a v = v := by
  obtain ⟨hi, -, hw, -⟩ := h a
  exact storedByte_of_writable hi hw v

/-- In the reference target every read gives the register (R63, D17). -/
theorem memRead_of_reference (h : P.ReferenceTarget) (T : Target) (a : Byte) :
    memRead P T a = T.rf.read P a := by
  obtain ⟨hi, hr, -⟩ := h a
  simp [memRead, hi, hr]

end MemWrite

/-- Settles O25: the written register holds the stored byte, which is the byte written or the old one. -/
theorem memWriteChangesOneRegister : Obligations.MemWriteChangesOneRegister := by
  unfold Obligations.MemWriteChangesOneRegister
  intro P T a v h
  rw [memWrite_read_same h]
  exact ⟨fun hi hw => storedByte_of_writable hi hw v, storedByte_eq_or P T a v,
    fun hP => storedByte_of_reference hP T a v, fun b hb => memWrite_read_other hb v⟩

/-! ### What a step emits (R77) -/

/-- Whatever the trace grows by from `s` to `t` satisfies `p` (R11). -/
def State.Emits (p : Event → Prop) (s t : State) : Prop := ∃ es, t.trace = s.trace ++ es ∧ ∀ e ∈ es, p e

/-- The event is not one of the other transport's (R77). -/
def Event.MayOccurUnder (tr : Transport) (e : Event) : Prop :=
  (tr = .spi → e.isI2c = false) ∧ (tr = .i2c → e.isSpi = false)

section Emits
variable {P : Params} {s t u : State} {p q : Event → Prop}

theorem State.Emits.of_trace_eq (h : t.trace = s.trace) : s.Emits p t := ⟨[], by simp [h], nofun⟩

theorem State.Emits.of_one {e : Event} (h : t.trace = s.trace ++ [e]) (he : p e) : s.Emits p t :=
  ⟨[e], h, by simpa using he⟩

theorem State.Emits.trans (h : s.Emits p t) (k : t.Emits p u) : s.Emits p u := by
  obtain ⟨es, ht, hes⟩ := h
  obtain ⟨fs, hu, hfs⟩ := k
  refine ⟨es ++ fs, by rw [hu, ht, List.append_assoc], fun e he => ?_⟩
  exact (List.mem_append.mp he).elim (hes e) (hfs e)

theorem State.Emits.mono (h : s.Emits p t) (hpq : ∀ e, p e → q e) : s.Emits q t := by
  obtain ⟨es, ht, hes⟩ := h
  exact ⟨es, ht, fun e he => hpq e (hes e he)⟩

/-- No event is of both transports. -/
theorem Event.isI2c_of_isSpi {e : Event} (h : e.isSpi = true) : e.isI2c = false := by
  cases e with
  | csLow | csHigh | tx | rx | xferFail => rfl
  | pinMode | rstHigh | rstLow | delay | i2cRead | i2cWrite | i2cFail => cases h

/-- An event of the SPI lines occurs under any transport but I2C. -/
theorem Event.MayOccurUnder.of_isSpi {tr : Transport} {e : Event} (h : e.isSpi = true) (ht : tr ≠ .i2c) :
    e.MayOccurUnder tr :=
  ⟨fun _ => Event.isI2c_of_isSpi h, fun k => absurd k ht⟩

/-- What every step ends with emits nothing and chooses no transport (R44, R194). -/
theorem State.Emits.settle (h : s.Emits (Event.MayOccurUnder t.eng.transport) t) :
    s.Emits (Event.MayOccurUnder (settle P t).eng.transport) (settle P t) := by
  obtain ⟨es, ht, hes⟩ := h
  obtain ⟨hk, -⟩ := settle_sameHandle P t
  exact ⟨es, by simp [Machine.settle, ht], hk ▸ hes⟩

/-- A failing slot emits two events of the SPI lines (R131). -/
theorem failSlot_emits (P : Params) (r : FaultReport) (s : State) :
    s.Emits (fun e => e.isSpi = true) (failSlot P r s) :=
  ⟨[.xferFail, .csHigh], by simp [failSlot, driveCsHigh], by simp [Event.isSpi]⟩

/-- The frame machine emits events of the SPI lines only (R123 to R126, R131). -/
theorem frameStep_emits (P : Params) (s : State) : s.Emits (fun e => e.isSpi = true) (frameStep P s) := by
  unfold frameStep
  split
  · exact .of_trace_eq rfl
  · exact .of_one (e := .csLow) rfl rfl
  · unfold commandStep
    split
    · exact failSlot_emits P _ (useSlot s)
    · exact .of_one rfl rfl
  · unfold replyStep
    split
    · exact failSlot_emits P _ (useSlot s)
    · exact .of_one rfl rfl
  · exact .of_one (e := .csHigh) rfl rfl

theorem frameSteps_emits (P : Params) (n : Nat) (s : State) :
    s.Emits (fun e => e.isSpi = true) (frameSteps P n s) := by
  induction n generalizing s with
  | zero => exact .of_trace_eq rfl
  | succ n ih => exact (frameStep_emits P s).trans (ih _)

/-- A whole frame emits events of the SPI lines only (R129). -/
theorem sendFrame_emits (P : Params) (f : FrameReq) (s : State) :
    s.Emits (fun e => e.isSpi = true) (sendFrame P f s) :=
  frameSteps_emits P 4 (loadFrame f s)

/-- The events of an acceptance are the pin set-up's, chip-select driven under SPI only (R283). -/
theorem Accepted.emits (m : Accepted P s t) : s.Emits (Event.MayOccurUnder t.eng.transport) t := by
  cases m with
  | initSpi cs rst ht =>
    refine ⟨spiPinTrace cs rst, by simp [setupSpi, pinOutput, driveCsHigh, spiPinTrace], ?_⟩
    simp [spiPinTrace, setupSpi, pinOutput, driveCsHigh, Event.MayOccurUnder, Event.isI2c]
  | initI2c adr rst ht => exact .of_one (e := .pinMode rst) rfl ⟨fun _ => rfl, fun _ => rfl⟩
  | rejected | i2c | spi => exact .of_trace_eq rfl

/-- The optional wait after the pulse is of neither transport (R288). -/
theorem postReset_emits (P : Params) (s : State) (tr : Transport) :
    s.Emits (Event.MayOccurUnder tr) (postReset P s) := by
  unfold postReset
  split
  · exact .of_trace_eq rfl
  · exact .of_one rfl ⟨fun _ => rfl, fun _ => rfl⟩

/-- An I2C read is one event of the I2C delegate (R201). -/
theorem i2cReadStep_emits (P : Params) (s : State) : s.Emits (fun e => e.isSpi = false) (i2cReadStep P s) := by
  unfold i2cReadStep
  split <;> exact .of_one rfl rfl

/-- An I2C write is one event of the I2C delegate (R201). -/
theorem i2cWriteStep_emits (s : State) : s.Emits (fun e => e.isSpi = false) (i2cWriteStep s) := by
  unfold i2cWriteStep
  split <;> exact .of_one rfl rfl

/-- Under I2C every event but those of the SPI lines may occur. -/
theorem State.Emits.under_i2c (h : s.Emits (fun e => e.isSpi = false) t) (ht : t.eng.transport = .i2c) :
    s.Emits (Event.MayOccurUnder t.eng.transport) t :=
  h.mono fun _ he => ⟨fun k => absurd (ht.symm.trans k) nofun, fun _ => he⟩

/-- A stage's move emits nothing of the other transport (R77). -/
theorem StageMove.emits (m : StageMove P s t) (h : s.eng.StageOk) :
    s.Emits (Event.MayOccurUnder t.eng.transport) t := by
  have under_i2c (hs : s.eng.stage = .i2c) : s.eng.transport = .i2c ∧ s.eng.phase = .idle := by
    simp_all [Engine.StageOk]
  cases m with
  | wait | done => exact .of_trace_eq rfl
  | ask ops q c hs hc hq => exact (accept_accepted P q _).emits
  | resetHigh | resetHold | resetLow => exact .of_one rfl ⟨fun _ => rfl, fun _ => rfl⟩
  | afterResetSpi hs ho => exact postReset_emits P s _
  | afterResetI2c hs ho => exact postReset_emits P s _
  | i2cRead hs ho =>
    obtain ⟨ht, hp⟩ := under_i2c hs
    obtain ⟨e, r, k⟩ := i2cReadStep_ends P hp
    exact (i2cReadStep_emits P s).under_i2c (by simpa [k] using ht)
  | i2cWrite hs ho =>
    obtain ⟨ht, hp⟩ := under_i2c hs
    obtain ⟨e, r, k⟩ := i2cWriteStep_ends hp
    exact (i2cWriteStep_emits s).under_i2c (by simpa [k] using ht)

/-- Everything a step can do from the machine's invariant: a whole window under SPI, or a stage's move; no frame is
partly sent. -/
theorem State.Inv.stepWith_cases (h : s.Inv P) (hst : stepWith P s = .next t) :
    ∃ u, t = settle P u ∧
      ((∃ i, fetch s = some i ∧ s.eng.transport = .spi ∧ u = sendFrame P i.frameReq s) ∨
        s.eng.phase = .idle ∧ stageStep P s = .next u) := by
  obtain ⟨he, -, ⟨hph, -⟩, -⟩ := h
  obtain ⟨u, rfl, ⟨i, hf, rfl⟩ | ⟨-, hp, hu⟩ | ⟨hf, hp, -⟩⟩ := Machine.stepWith_cases hst
  · obtain ⟨-, -, -, ht, -⟩ := he.sending (by simp [fetch_loaded hf])
    exact ⟨_, rfl, .inl ⟨i, hf, ht, rfl⟩⟩
  · exact ⟨u, rfl, .inr ⟨hp, hu⟩⟩
  · obtain ⟨i, hi, -⟩ := he.fetch (hph.resolve_left hp)
    exact absurd (hf.symm.trans hi) nofun

/-- From the machine's invariant a step emits nothing of the other transport (R77). -/
theorem State.Inv.stepWith_emits (h : s.Inv P) (hst : stepWith P s = .next t) :
    s.Emits (Event.MayOccurUnder t.eng.transport) t := by
  obtain ⟨u, rfl, ⟨i, -, ht, rfl⟩ | ⟨-, hu⟩⟩ := h.stepWith_cases hst
  · obtain ⟨hk, -⟩ := sendFrame_sameOutside P i.frameReq s
    exact .settle ((sendFrame_emits P i.frameReq s).mono fun _ he =>
      Event.MayOccurUnder.of_isSpi he (by simp [hk, ht]))
  · obtain ⟨⟨hs, -⟩, -⟩ := h
    exact .settle ((stageStep_cases hu).emits hs)

end Emits

/-- Settles O37: a frame is sent under SPI only and emits events of the SPI lines only; of the stages' moves the I2C
call is made under I2C only, and the pin set-up drives chip-select under SPI only. -/
theorem transportsNeverMix : Obligations.TransportsNeverMix := by
  unfold Obligations.TransportsNeverMix
  intro s t h hst
  rw [step_eq_stepWith] at hst
  obtain ⟨es, ht, hes⟩ := h.stepWith_emits hst
  exact ⟨es, ht, fun k e he => (hes e he).1 k, fun k e he => (hes e he).2 k⟩

end Sys2Proof.Machine
end

section
/-! PROOFS. 20_memory, continued: one register request under SPI, from its acceptance to its result (R190 to R194),
and a read after a write (R72). -/

namespace Sys2Proof.Machine

/-! ### What a step leaves in a register (R64, R71) -/

section Keeps
variable {P : Params} {s t : State} {a : Byte}

/-- What every step ends with leaves a register alone that the chip does not change (R44). -/
theorem settle_read_other (h : P.envWrites a = false) : (settle P s).tgt.rf.read P a = s.tgt.rf.read P a := by
  rw [settle, envTurn_read_other h, sequencerMove_tgt]

/-- A stage's move leaves the target as it is, but for the rising edge of the reset pulse (R287). -/
theorem StageEffect.tgt_eq (m : StageEffect P s t) (hps : s.tgt.ps = .idle) (hs : s.eng.stage ≠ .pins) :
    t.tgt = s.tgt := by
  cases m with
  | wait | done | resetHold | resetLow | i2c => rfl
  | accepted ops c t _ ha => exact ha.tgt_eq hps
  | resetHigh hr => exact absurd hr hs
  | afterResetSpi => exact postReset_tgt P s
  | afterResetI2c => exact postReset_tgt P s

/-- Every step but the reset pulse and a `WRPTR` that points at the register leaves it as it is, if the chip does
(R44, R64, R287). -/
theorem State.Inv.stepWith_read_other (h : s.Inv P) (hst : stepWith P s = .next t) (he : P.envWrites a = false)
    (hs : s.eng.stage ≠ .pins) (hw : (∃ d, fetch s = some (.wrptr d)) → s.tgt.ptr ≠ a) :
    t.tgt.rf.read P a = s.tgt.rf.read P a := by
  obtain ⟨u, rfl, ⟨i, hf, -, rfl⟩ | ⟨hp, hu⟩⟩ := h.stepWith_cases hst <;> rw [settle_read_other he]
  · exact sendFrame_read_other fun ⟨d, hd⟩ => (hw ⟨d, hd ▸ hf⟩).symm
  · obtain ⟨-, -, ⟨-, hps⟩, -⟩ := h
    rw [(stageStep_effect hp hu).tgt_eq hps hs]

end Keeps

/-! ### The windows of a register access at the target (R152 to R154) -/

section Windows
variable {P : Params} {T : Target}

/-- A `SETPTR` window at a known parser (R152). -/
theorem window_setptr (hk : T.known = true) (a : Byte) :
    targetWindow P [opSetptr, a] T =
      { T with ptr := a, ptrValid := true, ps := .idle, hold := a, wrote := none, draws := T.draws + 3 } := by
  simp [targetWindow, tgtSlots, tgtSlot, slotEffect, tgtCsLow, dispatchOpcode, tgtCsHigh, nextDraw, closeWindow, setPtr,
    opSetptr, opRstif, hk]

/-- After a `SETPTR` window at a known parser the pointer names the register, and no register has changed (R152). -/
theorem window_setptr_points (P : Params) (hk : T.known = true) (a : Byte) :
    (targetWindow P [opSetptr, a] T).known = true ∧ (targetWindow P [opSetptr, a] T).ptrValid = true ∧
      (targetWindow P [opSetptr, a] T).ptr = a ∧ (targetWindow P [opSetptr, a] T).rf = T.rf := by
  rw [window_setptr hk]
  exact ⟨hk, rfl, rfl, rfl⟩

/-- A `WRPTR` window with a valid pointer (R154). -/
theorem window_wrptr (hk : T.known = true) (hv : T.ptrValid = true) (d : Byte) :
    targetWindow P [opWrptr, d] T =
      { T with
        rf := (memWrite P T.ptr d (tgtSlot P opWrptr (tgtCsLow T))).rf, ptr := P.freePtr (T.draws + 1),
        ptrValid := false, ps := .idle, hold := d, wrote := none, draws := T.draws + 3 } := by
  simp [targetWindow, tgtSlots, tgtSlot, slotEffect, tgtCsLow, dispatchOpcode, tgtCsHigh, nextDraw, closeWindow,
    applyWrite, losePtr, memWrite, opWrptr, opSetptr, opRstif, hk, hv]

/-- An `RDPTR` window with a valid pointer (R153). -/
theorem window_rdptr (hk : T.known = true) (hv : T.ptrValid = true) (c : Byte) :
    targetWindow P [opRdptr, c] T =
      { T with
        ptr := P.freePtr (T.draws + 1), ptrValid := false, ps := .idle, wrote := none, draws := T.draws + 3 } := by
  simp [targetWindow, tgtSlots, tgtSlot, slotEffect, tgtCsLow, dispatchOpcode, tgtCsHigh, nextDraw, closeWindow,
    losePtr, opRdptr, opWrptr, opSetptr, opRstif, hk, hv]

/-- The byte a read's window captures with a valid pointer (R153). -/
theorem replyByte_rdptr (hk : T.known = true) (hv : T.ptrValid = true) :
    replyByte P opRdptr T = memRead P (tgtSlot P opRdptr (tgtCsLow T)) T.ptr := by
  simp [replyByte, tgtDrives, tgtSlot, slotEffect, tgtCsLow, dispatchOpcode, nextDraw, opRdptr, opWrptr, opSetptr,
    opRstif, hk, hv]

/-- In the reference target a write's two windows leave its byte in the register it names (R152, R154, D17). -/
theorem write_windows_read (hP : P.ReferenceTarget) (hk : T.known = true) (hwf : T.rf.wf P)
    (a d : Byte) :
    (targetWindow P [opWrptr, d] (targetWindow P [opSetptr, a] T)).rf.read P a = d := by
  obtain ⟨hk', hv, hp, hrf⟩ := window_setptr_points P hk a
  rw [window_wrptr hk' hv, hp, memWrite_read_same (hrf ▸ hwf : (tgtSlot P opWrptr (tgtCsLow _)).rf.wf P)]
  exact storedByte_of_reference hP _ a d

/-- In the reference target a read's two windows capture the register it names (R152, R153, D17). -/
theorem read_windows_replyByte (hP : P.ReferenceTarget) (hk : T.known = true) (a : Byte) :
    replyByte P opRdptr (targetWindow P [opSetptr, a] T) = T.rf.read P a := by
  obtain ⟨hk', hv, hp, hrf⟩ := window_setptr_points P hk a
  rw [replyByte_rdptr hk' hv, hp, memRead_of_reference hP]
  exact congrArg (RegFile.read P · a) hrf

end Windows

/-! ### A moment in which the chip changes nothing (R44) -/

/-- Whatever the chip does from now on, it changes no register: no change is to come, or none that is allowed. -/
def State.ChipSilent (P : Params) (s : State) : Prop := ∀ c ∈ s.inputs.envChanges, ∀ rf, applyChanges P c rf = rf

/-- The coming moment's changes are used up. -/
def nextMoment (s : State) : State := { s with inputs := { s.inputs with envChanges := s.inputs.envChanges.tail } }

section Silent
variable {P : Params} {s t : State}

/-- The chip of the reference target changes no register (D17). -/
theorem chipSilent_of_reference (h : P.ReferenceTarget) (s : State) : s.ChipSilent P := by
  intro c hc rf
  clear hc
  induction c generalizing rf with
  | nil => rfl
  | cons x rest ih =>
    obtain ⟨-, -, -, he⟩ := h x.1
    simp [applyChanges, he, ih]

theorem State.ChipSilent.next (h : s.ChipSilent P) : (nextMoment s).ChipSilent P :=
  fun c hc => h c (List.mem_of_mem_tail hc)

theorem State.ChipSilent.envTurn_eq (h : s.ChipSilent P) (hc : s.eng.cs ≠ .low) (hr : s.eng.rst ≠ .high) :
    envTurn P s = nextMoment s := by
  have hh : applyChanges P (s.inputs.envChanges.headD []) s.tgt.rf = s.tgt.rf := by
    cases hl : s.inputs.envChanges with
    | nil => rfl
    | cons c rest => exact h c (by simp [hl]) _
  unfold envTurn
  rw [if_neg (by simp [hc, hr]), hh]
  rfl

/-- What a step ends with if the chip is silent (R194). -/
theorem State.ChipSilent.settle_eq (h : s.ChipSilent P) (hc : s.eng.cs ≠ .low) (hr : s.eng.rst ≠ .high) :
    settle P s = nextMoment (sequencerMove s) := by
  obtain ⟨-, -, -, -, -, -, -, -, kc, kr⟩ := sequencerMove_eng s
  have hq : (sequencerMove s).ChipSilent P := by
    unfold State.ChipSilent
    rw [sequencerMove_inputs]
    exact h
  exact hq.envTurn_eq (kc ▸ hc) (kr ▸ hr)

end Silent

/-! ### One window whose slots succeed (R129) -/

/-- The initiator after a command's frame whose slots succeed and whose reply slot, if any, delivers `v`. -/
def Engine.afterFrame (E : Engine) (v : Byte) : Instr → Engine
  | .rstif => E.afterF2 opRstif opRstif
  | .setptr a => E.afterF2 opSetptr a
  | .wrptr d => E.afterF2 opWrptr d
  | .rdptr => E.afterF1r opRdptr v

/-- The bytes on the initiator's line in a command's window: in a reply slot the fill (R101, R125). -/
def lineBytes (P : Params) : Instr → List Byte
  | .rstif => [opRstif, opRstif]
  | .setptr a => [opSetptr, a]
  | .wrptr d => [opWrptr, d]
  | .rdptr => [opRdptr, P.rdFill]

/-- The state after a command's frame whose slots succeed and whose reply slot, if any, delivers `v`. -/
def State.afterWindow (P : Params) (i : Instr) (v : Byte) (s : State) : State :=
  { s with
    eng := s.eng.afterFrame v i,
    tgt := targetWindow P (lineBytes P i) s.tgt,
    inputs := { s.inputs with slotFaults := s.inputs.slotFaults.tail.tail },
    trace := s.trace ++ windowTrace i v }

section AfterFrame
variable (E : Engine) (v : Byte) (i : Instr)
@[simp] theorem Engine.afterFrame_phase : (E.afterFrame v i).phase = .idle := by cases i <;> rfl
@[simp] theorem Engine.afterFrame_cs : (E.afterFrame v i).cs = .high := by cases i <;> rfl
@[simp] theorem Engine.afterFrame_transport : (E.afterFrame v i).transport = E.transport := by cases i <;> rfl
@[simp] theorem Engine.afterFrame_stage : (E.afterFrame v i).stage = E.stage := by cases i <;> rfl
@[simp] theorem Engine.afterFrame_op : (E.afterFrame v i).op = E.op := by cases i <;> rfl
@[simp] theorem Engine.afterFrame_rst : (E.afterFrame v i).rst = E.rst := by cases i <;> rfl
end AfterFrame

section OneWindow
variable {P : Params} {s t : State} {i : Instr}

/-- A command's frame whose slots succeed, in either format. -/
theorem sendFrame_of_slotsOk {v : Byte} (h : s.SlotsOk 2) (hv : i = .rdptr → v = replyByte P opRdptr s.tgt) :
    sendFrame P i.frameReq s = s.afterWindow P i v := by
  obtain ⟨h0, h1⟩ := h.not_fails P
  cases i with
  | rstif | setptr | wrptr => exact sendFrame_f2 P _ _ s h0 h1
  | rdptr => exact hv rfl ▸ sendFrame_f1r P _ _ s h0 h1

/-- The step of a loaded command whose slots succeed, the chip being silent. -/
theorem stepWith_window {v : Byte} (hf : fetch s = some i) (hs : s.SlotsOk 2) (hch : s.ChipSilent P)
    (hr : s.eng.rst ≠ .high) (hv : i = .rdptr → v = replyByte P opRdptr s.tgt) :
    stepWith P s = .next (nextMoment (sequencerMove (s.afterWindow P i v))) := by
  have hch' : (s.afterWindow P i v).ChipSilent P := hch
  rw [stepWith_of_fetch hf, sendFrame_of_slotsOk hs hv, hch'.settle_eq (by simp [State.afterWindow])
    (by simpa [State.afterWindow] using hr)]

theorem State.SlotsOk.mono {m n : Nat} (h : s.SlotsOk n) (hmn : m ≤ n) : s.SlotsOk m :=
  fun b hb => h b (List.take_subset_take_left _ hmn hb)

/-- Two of the coming slots are used by a window; the others are left. -/
theorem State.SlotsOk.of_tail_tail {n : Nat} (h : s.SlotsOk (n + 2))
    (ht : t.inputs.slotFaults = s.inputs.slotFaults.tail.tail) : t.SlotsOk n := by
  unfold State.SlotsOk at *
  rw [ht]
  match s.inputs.slotFaults, h with
  | [], _ => simp
  | [x], _ => simp
  | x :: y :: l, h => exact fun b hb => h b (List.mem_cons_of_mem _ (List.mem_cons_of_mem _ hb))

end OneWindow

/-! ### A register request under SPI, step by step (R190 to R194) -/

/-- How a register request is served under SPI: its kind, the command of its access window, and the response if a reply
slot delivers `v` (R190, R194). The datum of a read is whatever is latched. -/
inductive Access (a d v : Byte) : Request → OpKind → Instr → Response → Prop
  | read : Access a d v (.readRegister a) .rd .rdptr (.okByte v)
  | write : Access a d v (.writeRegister a d) .wr (.wrptr d) .ok

/-- The requester hands over its one request, with the operations in `rest` still to do (R204). -/
def State.asking (rest : List ClientOp) (s : State) : State :=
  { s with client := .single, inputs := { s.inputs with ops := rest } }

/-- A register request is accepted under SPI: it is latched and the address frame is loaded (R190). -/
def State.addressing (op : OpKind) (a d : Byte) (s : State) : State :=
  loadFrame (Instr.setptr a).frameReq
    (s.takeResponse.onEngine fun E => { E with op := op, addr := a, data := d, stage := .ptr })

/-- The access frame is loaded (R194). -/
def State.accessing (i : Instr) (s : State) : State :=
  loadFrame i.frameReq (s.onEngine fun E => { E with stage := .acc })

/-- A register request has been served with two windows whose slots succeeded (R206): its access command was `i`, its
reply slot delivered `v`, and its response `r` is still to be taken. -/
def State.served (P : Params) (rest : List ClientOp) (a d v : Byte) (i : Instr) (r : Response) (s : State) : State :=
  { s with
    eng := { (s.eng.afterF2 opSetptr a).afterFrame v i with op := .none, stage := .idle, addr := a, data := d },
    tgt := targetWindow P (lineBytes P i) (targetWindow P [opSetptr, a] s.tgt),
    client := .single, response := some r,
    inputs :=
      { s.inputs with
        ops := rest, slotFaults := s.inputs.slotFaults.tail.tail.tail.tail,
        envChanges := s.inputs.envChanges.tail.tail.tail },
    trace := s.trace ++ (windowTrace (.setptr a) 0 ++ windowTrace i v), responses := s.responses ++ [r] }

/-- The requester takes the response to its one request, which is the operation's result (R204). -/
def State.resultTaken (r : Response) (s : State) : State :=
  { s with client := .idle, response := none, results := s.results ++ [r] }

/-- A register request has been served and its response taken. -/
def State.completed (P : Params) (rest : List ClientOp) (a d v : Byte) (i : Instr) (r : Response) (s : State) : State :=
  nextMoment ((s.served P rest a d v i r).resultTaken r)

section Request
variable {P : Params} {s t : State} {a d v : Byte} {rest : List ClientOp} {q : Request} {op : OpKind} {i : Instr}
  {r : Response}

theorem Access.pinsOk (h : Access a d v q op i r) : q.pinsOk = true := by cases h <;> rfl

theorem Access.op_of_rdptr (h : Access a d v q op i r) (hi : i = .rdptr) : op = .rd := by
  cases h with
  | read => rfl
  | write => cases hi

/-- A register request is accepted under SPI (R190). -/
theorem Access.accept_eq (h : Access a d v q op i r) (ht : s.eng.transport = .spi)
    (hd : op = .rd → d = s.eng.data) : accept P q s = s.addressing op a d := by
  cases h with
  | read =>
    obtain rfl := hd rfl
    simp only [accept, acceptRegister, dispatchTransport, State.takeResponse_eng, State.onEngine_eng, ht]
    rfl
  | write =>
    simp only [accept, acceptRegister, dispatchTransport, State.takeResponse_eng, State.onEngine_eng, ht]
    rfl

/-- After the address window the access frame is loaded (R194). -/
theorem Access.sequencerMove_ptr (h : Access a d v q op i r) (hp : s.eng.phase = .idle) (hs : s.eng.stage = .ptr)
    (ho : s.eng.op = op) (hd : s.eng.data = d) : sequencerMove s = s.accessing i := by
  unfold sequencerMove
  cases h <;> simp only [hp, hs, ho, hd] <;> rfl

/-- After the access window the request is answered (R194). -/
theorem Access.sequencerMove_acc (h : Access a d v q op i r) (hp : s.eng.phase = .idle) (hs : s.eng.stage = .acc)
    (ho : s.eng.op = op) (hv : op = .rd → s.eng.rx = v) : sequencerMove s = s.finish r := by
  unfold sequencerMove
  cases h with
  | read => simp only [hp, hs, ho, hv rfl]
  | write => simp only [hp, hs, ho]

/-- The step in which a register request is accepted under SPI. -/
theorem stepWith_addressing (h : Access a d v q op i r) (hr : s.SpiReady) (hc : s.client = .idle)
    (ho : s.inputs.ops = .request q :: rest) (hch : s.ChipSilent P) (hd : op = .rd → d = s.eng.data) :
    stepWith P s = .next (nextMoment ((s.asking rest).addressing op a d)) := by
  obtain ⟨ht, hs, hp, hcs, hrst, -⟩ := hr
  have stage : stageStep P s = .next ((s.asking rest).addressing op a d) := by
    rw [← h.accept_eq (P := P) (s := s.asking rest) ht hd]
    simp [stageStep, requesterStep, clientStart, clientMove, State.asking, hs, hc, ho, h.pinsOk]
  have hch' : ((s.asking rest).addressing op a d).ChipSilent P := hch
  have sending : ((s.asking rest).addressing op a d).eng.phase ≠ .idle := nofun
  have hcs' : s.eng.cs ≠ .low := by simp [hcs]
  have hrst' : s.eng.rst ≠ .high := by simp [hrst]
  rw [stepWith_of_stage hp stage, hch'.settle_eq hcs' hrst', sequencerMove_of_phase sending]

/-- The step in which the requester takes the response of an idle engine. -/
theorem stepWith_resultTaken (hs : s.eng.stage = .idle) (hp : s.eng.phase = .idle) (hcs : s.eng.cs ≠ .low)
    (hrst : s.eng.rst ≠ .high) (hc : s.client = .single) (hr : s.response = some r) (hch : s.ChipSilent P) :
    stepWith P s = .next (nextMoment (s.resultTaken r)) := by
  have stage : stageStep P s = .next (s.resultTaken r) := by
    simp [stageStep, requesterStep, clientContinue, clientMove, State.resultTaken, hs, hc, hr]
  have hch' : (s.resultTaken r).ChipSilent P := hch
  have quiet : sequencerMove (s.resultTaken r) = s.resultTaken r := by
    apply sequencerMove_of_stage <;> simp [State.resultTaken, hs]
  rw [stepWith_of_stage hp stage, hch'.settle_eq hcs hrst, quiet]

/-- The access window of a register request leaves the parser known (R153, R154). -/
theorem Access.window_known {T : Target} (h : Access a d v q op i r) (hk : T.known = true) :
    (targetWindow P (lineBytes P i) (targetWindow P [opSetptr, a] T)).known = true := by
  obtain ⟨hk', hv, -⟩ := window_setptr_points P hk a
  cases h with
  | read => exact (congrArg Target.known (window_rdptr hk' hv P.rdFill)).trans hk'
  | write => exact (congrArg Target.known (window_wrptr hk' hv d)).trans hk'

/-- The system is ready for the next request once one is served (R49, R206). -/
theorem Access.served_spiReady (h : Access a d v q op i r) (hr : s.SpiReady) :
    (s.served P rest a d v i r).SpiReady := by
  obtain ⟨ht, -, -, -, hrst, hk, -⟩ := hr
  refine ⟨?_, rfl, ?_, ?_, ?_, h.window_known hk, tgtCsHigh_idle P _⟩
  · exact (Engine.afterFrame_transport _ v i).trans ht
  · exact Engine.afterFrame_phase _ v i
  · exact Engine.afterFrame_cs _ v i
  · exact (Engine.afterFrame_rst _ v i).trans hrst

theorem Access.completed_spiReady (h : Access a d v q op i r) (hr : s.SpiReady) (rest : List ClientOp) :
    (s.completed P rest a d v i r).SpiReady :=
  h.served_spiReady (rest := rest) hr

section Run
variable (h : Access a d v q op i r) (hr : s.SpiReady) (hc : s.client = .idle)
    (ho : s.inputs.ops = .request q :: rest) (hch : s.ChipSilent P) (hsl : s.SlotsOk 4)
    (hd : op = .rd → d = s.eng.data)
    (hv : op = .rd → v = replyByte P opRdptr (targetWindow P [opSetptr, a] s.tgt))
include h hr hc ho hch hsl hd hv

/-- A register request under SPI, from its acceptance to its response: three steps (R191, R193). -/
theorem runWith_served : runWith P 3 s = .next (s.served P rest a d v i r) := by
  have ⟨_, _, _, _, hlow, _⟩ := hr
  have hrst : s.eng.rst ≠ .high := by simp [hlow]
  refine (runWith_one (stepWith_addressing h hr hc ho hch hd)).trans ?_
  refine (runWith_one (stepWith_window (i := .setptr a) (v := 0) ?_ ?_ ?_ ?_ nofun)).trans ?_
  · exact fetch_of_holds rfl ⟨rfl, rfl, rfl, fun _ => rfl⟩
  · exact hsl.mono (by decide : 2 ≤ 4)
  · exact hch.next
  · exact hrst
  rw [h.sequencerMove_ptr rfl rfl rfl rfl]
  refine (runWith_one (stepWith_window (i := i) (v := v) ?_ ?_ ?_ ?_ ?_)).trans ?_
  · exact fetch_of_holds rfl ⟨rfl, rfl, rfl, fun k => if_pos k⟩
  · exact hsl.of_tail_tail (n := 2) rfl
  · exact hch.next.next
  · exact hrst
  · exact fun k => hv (h.op_of_rdptr k)
  rw [h.sequencerMove_acc (Engine.afterFrame_phase _ _ _) (Engine.afterFrame_stage _ _ _)
    (Engine.afterFrame_op _ _ _) ?_]
  · -- the three steps one after the other, against `State.served`, field by field
    cases h <;> simp [runWith, State.served, nextMoment, State.accessing, State.addressing, State.asking,
      State.afterWindow, State.takeResponse, State.finish, State.respond, State.onEngine, loadFrame, Engine.afterFrame,
      Engine.afterF2, Engine.afterF1r, lineBytes, Instr.frameReq]
  · intro k
    cases h with
    | read => rfl
    | write => cases k

/-- A register request under SPI, from its acceptance to its result: four steps (R191, R193, R204). -/
theorem runWith_completed : runWith P 4 s = .next (s.completed P rest a d v i r) := by
  obtain ⟨-, hs, hp, hcs, hrst, -⟩ := h.served_spiReady (P := P) (rest := rest) hr
  have hch' : (s.served P rest a d v i r).ChipSilent P := hch.next.next.next
  rw [runWith_add 3 1 (runWith_served h hr hc ho hch hsl hd hv)]
  exact runWith_one (stepWith_resultTaken hs hp (by simp [hcs]) (by simp [hrst]) rfl rfl hch')

end Run

theorem State.SlotsOk.completed {n : Nat} (h : s.SlotsOk (n + 4)) : (s.completed P rest a d v i r).SlotsOk n := by
  have half : (useSlot (useSlot s)).SlotsOk (n + 2) := h.of_tail_tail rfl
  exact half.of_tail_tail rfl

/-- In the reference target a read request gives the register's byte (R191, D17). -/
theorem runWith_read_reference (hP : P.ReferenceTarget) (hr : s.SpiReady) (hc : s.client = .idle)
    (ho : s.inputs.ops = .request (.readRegister a) :: rest) (hsl : s.SlotsOk 4) (hv : s.tgt.rf.read P a = v) :
    runWith P 4 s = .next (s.completed P rest a s.eng.data v .rdptr (.okByte v)) := by
  have ⟨_, _, _, _, _, hk, _⟩ := hr
  have captured : v = replyByte P opRdptr (targetWindow P [opSetptr, a] s.tgt) := by
    rw [read_windows_replyByte hP hk, hv]
  exact runWith_completed .read hr hc ho (chipSilent_of_reference hP s) hsl (fun _ => rfl) fun _ => captured

/-- In the reference target a write request leaves its byte in the register (R193, D17). -/
theorem completed_write_read (hP : P.ReferenceTarget) (hr : s.SpiReady) (hwf : s.tgt.rf.wf P) :
    (s.completed P rest a d v (.wrptr d) r).tgt.rf.read P a = d := by
  obtain ⟨-, -, -, -, -, hk, -⟩ := hr
  exact write_windows_read hP hk hwf a d

end Request

/-- Settles O44: the write leaves its byte in the register and the system ready, and the read then delivers the
register; of the steps in between only a `WRPTR` at the register and the reset pulse change it. -/
theorem readAfterWriteReturnsTheByte : Obligations.ReadAfterWriteReturnsTheByte := by
  unfold Obligations.ReadAfterWriteReturnsTheByte
  refine ⟨fun P s a d rest hP hr hc ho hsl hwf => ?_, fun P s t a hP h hst hs hw => ?_⟩
  · have slots (n : Nat) : s.SlotsOk n := fun b hb => hsl b (List.mem_of_mem_take hb)
    have write := runWith_completed (v := 0) .write hr hc ho (chipSilent_of_reference hP s) (slots 4) nofun nofun
    refine ⟨_, (runWith_add 4 4 write).trans (runWith_read_reference hP ?_ rfl rfl ?_ ?_),
      List.append_assoc s.results _ _, rfl⟩
    · exact Access.write.completed_spiReady hr _
    · exact (slots 8).completed
    · exact completed_write_read hP hr hwf
  · obtain ⟨-, -, -, he⟩ := hP a
    exact h.stepWith_read_other hst he hs hw

end Sys2Proof.Machine
end

section
/-! PROOFS. 30_encoding: the decoder is the inverse of the encoder and rejects by name (R94 to R97), it follows the
opcode table on frame words (R9, R94), and which windows the target refuses (R97). -/

namespace Sys2Proof

/-! ### The op-codes (R94) -/

/-- The byte of an op-code. -/
def Opcode.byte : Opcode → Byte
  | .rstif => opRstif
  | .setptr => opSetptr
  | .wrptr => opWrptr
  | .rdptr => opRdptr

@[simp] theorem opcodeOf_byte (op : Opcode) : opcodeOf op.byte = some op := by
  cases op <;> rfl

theorem opcodeOf_eq_some_iff {b : Byte} {op : Opcode} : opcodeOf b = some op ↔ b = op.byte := by
  refine ⟨fun h => ?_, fun h => h ▸ opcodeOf_byte op⟩
  unfold opcodeOf at h
  split_ifs at h with hb hb hb hb <;> exact Option.some.inj h ▸ hb

theorem opcodeOf_eq_none_iff {b : Byte} :
    opcodeOf b = none ↔ b ≠ opRstif ∧ b ≠ opSetptr ∧ b ≠ opWrptr ∧ b ≠ opRdptr := by
  unfold opcodeOf
  split_ifs <;> simp [*]

/-! ### The decoder and the encoder (R94 to R96) -/

@[simp] theorem decode_encode_append (i : Instr) (tail : List Byte) : decode (encode i ++ tail) = .ok (i, tail) := by
  cases i <;> rfl

/-- Whatever is decoded is the encoding of the command, and the bytes after it. -/
theorem eq_encode_append_of_decode {bytes tail : List Byte} {i : Instr} (h : decode bytes = .ok (i, tail)) :
    bytes = encode i ++ tail := by
  cases bytes with
  | nil => cases h
  | cons b rest =>
    cases hb : opcodeOf b with
    | none => simp [decode, hb] at h
    | some op =>
      obtain rfl := opcodeOf_eq_some_iff.mp hb
      cases op with
      | rdptr => cases h; rfl
      | rstif =>
        cases rest with
        | nil => cases h
        | cons x rest =>
          by_cases hx : x = opRstif
          · subst hx; cases h; rfl
          · simp [decode, hb, hx] at h
      | setptr | wrptr =>
        cases rest with
        | nil => cases h
        | cons x rest => cases h; rfl

theorem decode_eq_ok_iff {bytes tail : List Byte} {i : Instr} :
    decode bytes = .ok (i, tail) ↔ bytes = encode i ++ tail :=
  ⟨eq_encode_append_of_decode, fun h => h ▸ decode_encode_append i tail⟩

theorem decodeCommand_eq_ok_iff_decode {bytes : List Byte} {i : Instr} :
    decodeCommand bytes = .ok i ↔ decode bytes = .ok (i, []) := by
  unfold decodeCommand
  split <;> simp_all

/-- One window holds one command: its encoding and nothing else (R120). -/
theorem decodeCommand_eq_ok_iff {bytes : List Byte} {i : Instr} : decodeCommand bytes = .ok i ↔ bytes = encode i := by
  rw [decodeCommand_eq_ok_iff_decode, decode_eq_ok_iff, List.append_nil]

/-- Settles O1: the encoding is taken off the head of the bytes, and nothing else is decoded. -/
theorem decodeAndEncodeAgree : Obligations.DecodeAndEncodeAgree := by
  unfold Obligations.DecodeAndEncodeAgree
  exact ⟨fun i tail _ => decode_encode_append i tail, fun _ _ => decodeCommand_eq_ok_iff⟩

/-! ### Malformed command bytes (R97) -/

theorem decodeCommand_of_decode_error {bytes : List Byte} {e : DecodeError} (h : decode bytes = .error e) :
    decodeCommand bytes = .error e := by
  simp [decodeCommand, h]

theorem decodeCommand_of_opcodeOf_none {b : Byte} (h : opcodeOf b = none) (rest : List Byte) :
    decodeCommand (b :: rest) = .error (.reservedOpcode b) :=
  decodeCommand_of_decode_error (by simp [decode, h])

theorem decodeCommand_reservedSecondByte {b : Byte} (h : b ≠ opRstif) (rest : List Byte) :
    decodeCommand (opRstif :: b :: rest) = .error (.reservedSecondByte b) :=
  decodeCommand_of_decode_error (by simp [decode, opcodeOf, h])

theorem decodeCommand_long (i : Instr) (b : Byte) (rest : List Byte) :
    decodeCommand (encode i ++ b :: rest) = .error .long := by
  simp [decodeCommand]

/-- Settles O5: each class of R97 at the step of the decoder that rejects it. -/
theorem malformedCommandsAreRejectedByName : Obligations.MalformedCommandsAreRejectedByName := by
  unfold Obligations.MalformedCommandsAreRejectedByName
  exact ⟨rfl,
    fun _ rest h0 h1 h2 h3 => decodeCommand_of_opcodeOf_none (opcodeOf_eq_none_iff.mpr ⟨h0, h1, h2, h3⟩) rest,
    fun _ rest h => decodeCommand_reservedSecondByte h rest, rfl, rfl, rfl, decodeCommand_long⟩

/-! ### Frame words (R9, R91) -/

theorem wordBytes_one (b : Byte) : wordBytes 1 b.toNat = [b] := by
  simp [wordBytes]

theorem wordBytes_two (b c : Byte) : wordBytes 2 (256 * b.toNat + c.toNat) = [b, c] := by
  have hb : (256 * b.toNat + c.toNat) / 256 = b.toNat := by omega
  have hc : BitVec.ofNat 8 (256 * b.toNat + c.toNat) = c := BitVec.eq_of_toNat_eq (by simp; omega)
  simp [wordBytes, hb, hc]

theorem decodeTableWord_eq_toOption (nbits w : Nat) :
    decodeTableWord nbits w = (decodeCommand (wordBytes ((nbits + 7) / 8) w)).toOption := by
  unfold decodeTableWord
  cases decodeCommand _ <;> rfl

/-- The decoder on a 16-bit frame word: slot 0 is its high byte, slot 1 its low byte. -/
theorem decodeTableWord_two (b c : Byte) :
    decodeTableWord 16 (256 * b.toNat + c.toNat) = (decodeCommand [b, c]).toOption := by
  rw [← wordBytes_two, decodeTableWord_eq_toOption]

theorem decodeTableWord_one (b : Byte) : decodeTableWord 8 b.toNat = (decodeCommand [b]).toOption := by
  rw [← wordBytes_one, decodeTableWord_eq_toOption]

theorem exists_bytes_of_lt {w : Nat} (h : w < 65536) : ∃ b c : Byte, w = 256 * b.toNat + c.toNat :=
  ⟨BitVec.ofNat 8 (w / 256), BitVec.ofNat 8 w, by simp; omega⟩

/-- Settles O2: seven fixed words, so the decoder is run on them. -/
theorem frameWordsDecodeAsPrinted : Obligations.FrameWordsDecodeAsPrinted := by
  unfold Obligations.FrameWordsDecodeAsPrinted
  decide

/-- Settles O3: the low byte is slot 1, which is the operand, or for `RSTIF` the second op-code byte. -/
theorem frameWordOperandIsTheLowByte : Obligations.FrameWordOperandIsTheLowByte := by
  unfold Obligations.FrameWordOperandIsTheLowByte
  refine fun b => ⟨decodeTableWord_two opSetptr b, decodeTableWord_two opWrptr b,
    (decodeTableWord_two opRstif b).trans ?_⟩
  split_ifs with h
  · rw [h]; rfl
  · rw [decodeCommand_reservedSecondByte h]; rfl

/-! ### The rows of the opcode table (R94) -/

/-- The mask 0xFF00 keeps the high byte of a word. -/
theorem word_and_highMask (b c : Byte) : (256 * b.toNat + c.toNat) &&& 0xFF00 = 256 * b.toNat := by
  have hi := Nat.and_div_two_pow (a := 256 * b.toNat + c.toNat) (b := 0xFF00) (n := 8)
  have lo := Nat.and_mod_two_pow (a := 256 * b.toNat + c.toNat) (b := 0xFF00) (n := 8)
  have keep := Nat.and_two_pow_sub_one_eq_mod ((256 * b.toNat + c.toNat) / 256) 8
  norm_num at hi lo keep
  omega

theorem word_and_wordMask (b c : Byte) : (256 * b.toNat + c.toNat) &&& 0xFFFF = 256 * b.toNat + c.toNat :=
  Nat.and_two_pow_sub_one_of_lt_two_pow (n := 16) (by omega)

theorem byte_and_byteMask (b : Byte) : b.toNat &&& 0xFF = b.toNat :=
  Nat.and_two_pow_sub_one_of_lt_two_pow (n := 8) b.isLt

/-- A 16-bit row with mask 0xFF00 covers the words whose slot 0 is its op-code. -/
theorem covers_highMask (name : String) (op b c : Byte) :
    (OpRow.mk name 16 0xFF00 (256 * op.toNat)).covers 16 (256 * b.toNat + c.toNat) = (b == op) := by
  have h : 256 * b.toNat = 256 * op.toNat ↔ b = op := by rw [← BitVec.toNat_inj]; omega
  rw [Bool.eq_iff_iff]
  simp [OpRow.covers, word_and_highMask, h]

/-- A 16-bit row with mask 0xFFFF covers its own word only. -/
theorem covers_wordMask (name : String) (b' c' b c : Byte) :
    (OpRow.mk name 16 0xFFFF (256 * b'.toNat + c'.toNat)).covers 16 (256 * b.toNat + c.toNat) =
      (b == b' && c == c') := by
  have h : 256 * b.toNat + c.toNat = 256 * b'.toNat + c'.toNat ↔ b = b' ∧ c = c' := by
    rw [← BitVec.toNat_inj, ← BitVec.toNat_inj]; omega
  rw [Bool.eq_iff_iff]
  simp [OpRow.covers, word_and_wordMask, h]

/-- An 8-bit row with mask 0xFF covers its own byte only. -/
theorem covers_byteMask (name : String) (op b : Byte) :
    (OpRow.mk name 8 0xFF op.toNat).covers 8 b.toNat = (b == op) := by
  rw [Bool.eq_iff_iff]
  simp [OpRow.covers, byte_and_byteMask, BitVec.toNat_inj]

theorem covers_of_nbits_ne {n k : Nat} (h : n ≠ k) (name : String) (mask pattern w : Nat) :
    (OpRow.mk name n mask pattern).covers k w = false := by
  simp [OpRow.covers, h]

/-- The table's patterns are its commands' fixed bytes, slot 0 in the high byte. -/
theorem opTable_eq : opTable =
    [⟨"RSTIF", 16, 0xFFFF, 256 * opRstif.toNat + opRstif.toNat⟩, ⟨"SETPTR", 16, 0xFF00, 256 * opSetptr.toNat⟩,
      ⟨"WRPTR", 16, 0xFF00, 256 * opWrptr.toNat⟩, ⟨"RDPTR", 8, 0xFF, opRdptr.toNat⟩] := rfl

/-- The rows that cover a 16-bit word are the row of the command that its two bytes make. -/
theorem opTable_filter_two (b c : Byte) :
    (opTable.filter fun r => r.covers 16 (256 * b.toNat + c.toNat)).map (fun r => r.mnemonic) =
      (decodeCommand [b, c]).toOption.toList.map Instr.mnemonic := by
  have not_rdptr := covers_of_nbits_ne (n := 8) (k := 16) (by decide)
  simp only [opTable_eq, List.filter, covers_wordMask, covers_highMask, not_rdptr]
  cases hb : opcodeOf b with
  | none =>
    obtain ⟨h0, h1, h2, -⟩ := opcodeOf_eq_none_iff.mp hb
    rw [decodeCommand_of_opcodeOf_none hb, beq_false_of_ne h0, beq_false_of_ne h1, beq_false_of_ne h2]
    rfl
  | some op =>
    obtain rfl := opcodeOf_eq_some_iff.mp hb
    cases op with
    | rstif =>
      by_cases hc : c = opRstif
      · subst hc; rfl
      · have hd : decodeCommand [Opcode.rstif.byte, c] = _ := decodeCommand_reservedSecondByte hc []
        rw [hd, beq_false_of_ne hc]
        rfl
    | setptr | wrptr | rdptr => rfl

/-- The rows that cover an 8-bit word are the row of the command that its one byte makes. -/
theorem opTable_filter_one (b : Byte) :
    (opTable.filter fun r => r.covers 8 b.toNat).map (fun r => r.mnemonic) =
      (decodeCommand [b]).toOption.toList.map Instr.mnemonic := by
  have only_rdptr := covers_of_nbits_ne (n := 16) (k := 8) (by decide)
  simp only [opTable_eq, List.filter, covers_byteMask, only_rdptr]
  cases hb : opcodeOf b with
  | none =>
    obtain ⟨-, -, -, h3⟩ := opcodeOf_eq_none_iff.mp hb
    rw [decodeCommand_of_opcodeOf_none hb, beq_false_of_ne h3]
    rfl
  | some op =>
    obtain rfl := opcodeOf_eq_some_iff.mp hb
    cases op <;> rfl

/-- Settles O4: by the bytes of the word. -/
theorem decoderFollowsTheOpcodeTable : Obligations.DecoderFollowsTheOpcodeTable := by
  unfold Obligations.DecoderFollowsTheOpcodeTable
  refine fun w => ⟨fun h => ?_, fun h => ?_⟩
  · obtain ⟨b, c, rfl⟩ := exists_bytes_of_lt h
    rw [decodeTableWord_two, opTable_filter_two]
  · have hw : (BitVec.ofNat 8 w).toNat = w := Nat.mod_eq_of_lt h
    rw [← hw, decodeTableWord_one, opTable_filter_one]

end Sys2Proof

namespace Sys2Proof.Machine

/-! ### The windows the target refuses (R97, R160) -/

/-- A window whose parser ends in a complete command leaves the parser known, so it is not refused (R159). -/
theorem targetWindow_not_refused_of_done {P : Params} {T : Target} {m : List Byte} {op : Opcode}
    (h : (tgtSlots P m (tgtCsLow T)).ps = .done op) (hk : op = .rstif ∨ T.known = true) :
    ¬(targetWindow P m T).Refused := by
  rintro ⟨hn, -⟩
  rw [targetWindow, (tgtCsHigh_done P h).2.1, (tgtSlots_known_mark P m _).1] at hn
  rcases hk with rfl | hk
  · simp at hn
  · simp [tgtCsLow, hk] at hn

/-- The windows that are obeyed: the four commands, each complete and with its precondition (R155). -/
theorem targetWindow_not_refused_iff {P : Params} {T : Target} {m : List Byte} :
    ¬(targetWindow P m T).Refused ↔
      m = [0x7A, 0x7A] ∨ (T.known = true ∧ ∃ a, m = [0x7D, a]) ∨
        (T.known = true ∧ T.ptrValid = true ∧ ∃ d, m = [0x7E, d]) ∨
        (T.known = true ∧ T.ptrValid = true ∧ ∃ f, m = [0x7F, f]) := by
  rcases window_cases P T m with ⟨hm, hps⟩ | ⟨hk, hm, hps⟩ | ⟨hk, hv, hm, hps⟩ | ⟨hk, hv, hm, hps⟩ |
    ⟨h0, h1, h2, h3, hi, hd⟩
  · exact iff_of_true (targetWindow_not_refused_of_done hps (.inl rfl)) (.inl hm)
  · exact iff_of_true (targetWindow_not_refused_of_done hps (.inr hk)) (.inr (.inl ⟨hk, hm⟩))
  · exact iff_of_true (targetWindow_not_refused_of_done hps (.inr hk)) (.inr (.inr (.inl ⟨hk, hv, hm⟩)))
  · exact iff_of_true (targetWindow_not_refused_of_done hps (.inr hk)) (.inr (.inr (.inr ⟨hk, hv, hm⟩)))
  · refine iff_of_false (not_not_intro (tgtCsHigh_refused P hi hd)) ?_
    simp only [not_or]
    exact ⟨h0, h1, h2, h3⟩

theorem windowWellFormed_iff {m : List Byte} :
    windowWellFormed m = true ↔
      m = [0x7A, 0x7A] ∨ (∃ a, m = [0x7D, a]) ∨ (∃ d, m = [0x7E, d]) ∨ ∃ f, m = [0x7F, f] := by
  match m with
  | [] => simp [windowWellFormed]
  | [_] => simp [windowWellFormed]
  | [b, c] => simp [windowWellFormed, or_assoc]
  | _ :: _ :: _ :: _ => simp [windowWellFormed]

/-- Settles O22: a window that is not refused is a complete command whose precondition on the parser and the pointer
holds, and what R97 lists is the rest. -/
theorem refusedWindowsAreExactlyTheListed : Obligations.RefusedWindowsAreExactlyTheListed := by
  unfold Obligations.RefusedWindowsAreExactlyTheListed
  intro P T m _
  rw [← not_iff_not, targetWindow_not_refused_iff]
  simp only [not_or, Bool.not_eq_false, windowWellFormed_iff]
  constructor
  · rintro (rfl | ⟨hk, a, rfl⟩ | ⟨hk, hv, d, rfl⟩ | ⟨hk, hv, f, rfl⟩) <;> simp [*]
  · rintro ⟨rfl | ⟨a, rfl⟩ | ⟨d, rfl⟩ | ⟨f, rfl⟩, hk, hv⟩ <;> simp_all

end Sys2Proof.Machine
end

section
/-! PROOFS. 40_framing: a frame event by event and as one window (R122 to R133), the loaded command (R122, R129), the
chip-select invariant (R127), and that no state of the invariant is stuck (R128). -/

namespace Sys2Proof.Machine

/-! ### How much of a frame is left (R124 to R126, R133) -/

/-- The byte slots of the current frame still to come. -/
def Engine.slotsLeft (E : Engine) : Nat :=
  match E.phase with
  | .idle => 0
  | .loaded => E.len + E.cap
  | .command => E.len - E.idx + E.cap
  | .reply => 1
  | .release => 0

/-- The steps of the current frame still to come if no slot fails: its slots, the release, and the assertion unless the
window is open already (R133). -/
def Engine.eventsLeft (E : Engine) : Nat :=
  match E.phase with
  | .idle => 0
  | .loaded => E.slotsLeft + 2
  | .command => E.slotsLeft + 1
  | .reply => E.slotsLeft + 1
  | .release => E.slotsLeft + 1

/-- The buffer holds a frame of at least one command byte and at most one reply byte, a command byte is left in the
command phase, and chip-select is low while the window is open (R122, R124, R127). -/
def Engine.FrameOk (E : Engine) : Prop :=
  0 < E.len ∧ E.cap ≤ 1 ∧ (E.phase = .command → E.idx < E.len) ∧ (E.phase.windowOpen = true → E.cs = .low)

section FrameSteps
variable {P : Params} {s : State} {E : Engine}

theorem Engine.eventsLeft_eq_zero_iff : E.eventsLeft = 0 ↔ E.phase = .idle := by
  unfold Engine.eventsLeft
  split <;> simp_all

/-- A loaded frame of two slots has four steps to come (R133). -/
theorem Engine.eventsLeft_of_twoSlots (hp : E.phase = .loaded) (hn : E.len + E.cap = 2) :
    E.eventsLeft = 4 := by
  simp [Engine.eventsLeft, Engine.slotsLeft, hp, hn]

/-- Inside a window the release follows the slots (R126). -/
theorem Engine.eventsLeft_of_windowOpen (h : E.phase.windowOpen = true) : E.eventsLeft = E.slotsLeft + 1 := by
  unfold Engine.eventsLeft
  split <;> simp_all [Phase.windowOpen]

theorem Engine.slotsLeft_of_loaded (hp : E.phase = .loaded) : E.slotsLeft = E.len + E.cap := by
  simp [Engine.slotsLeft, hp]

theorem Engine.frameOk_of_loaded (hp : E.phase = .loaded) (hl : 0 < E.len) (hc : E.cap ≤ 1) :
    E.FrameOk :=
  ⟨hl, hc, by simp [hp], by simp [hp, Phase.windowOpen]⟩

/-- If the coming slots succeed, the first does and the others are still to come. -/
theorem State.SlotsOk.head {n : Nat} (h : s.SlotsOk (n + 1)) :
    slotFailure P s = none ∧ (useSlot s).SlotsOk n := by
  unfold State.SlotsOk at *
  unfold slotFailure
  cases hl : s.inputs.slotFaults with
  | nil => simp [hl]
  | cons x l =>
    rw [hl] at h
    have hx : x = none := h x (by simp)
    exact ⟨by simp [hx], fun b hb => h b (List.mem_cons_of_mem _ (by simpa [hl] using hb))⟩

/-- In a byte slot that fails the frame machine closes the window and raises (R131). -/
theorem frameStep_of_slotFailure {r : FaultReport} (hp : s.eng.phase = .command ∨ s.eng.phase = .reply)
    (hr : slotFailure P s = some r) : frameStep P s = failSlot P r (useSlot s) := by
  rcases hp with hp | hp
  · simp only [frameStep, hp, commandStep, hr]
  · simp only [frameStep, hp, replyStep, hr]

/-- After a failing slot the frame is over. -/
theorem failSlot_frameOk (r : FaultReport) (h : s.eng.FrameOk) :
    (failSlot P r (useSlot s)).eng.FrameOk ∧ (failSlot P r (useSlot s)).eng.eventsLeft = 0 := by
  obtain ⟨hl, hc, -, -⟩ := h
  exact ⟨⟨hl, hc, nofun, nofun⟩, rfl⟩

/-- A command slot that succeeds keeps the frame in order (R124). -/
theorem afterCommandByte_frameOk (h : E.FrameOk) (hp : E.phase = .command) : (afterCommandByte E).FrameOk := by
  obtain ⟨hl, hc, hi, hcs⟩ := h
  have hi := hi hp
  refine ⟨hl, hc, fun hk => ?_, fun _ => hcs (by rw [hp]; rfl)⟩
  simp only [afterCommandByte] at hk ⊢
  split_ifs at hk
  omega

/-- A command slot that succeeds leaves one slot fewer (R124). -/
theorem afterCommandByte_slotsLeft (h : E.FrameOk) (hp : E.phase = .command) :
    (afterCommandByte E).slotsLeft + 1 = E.slotsLeft := by
  obtain ⟨-, hc, hi, -⟩ := h
  have hi := hi hp
  simp only [Engine.slotsLeft, afterCommandByte, hp]
  split_ifs <;> dsimp only <;> omega

/-- A step of a frame in progress: a slot fails, or one step fewer is left (R123 to R126, R131). -/
theorem frameStep_cases (P : Params) (h : s.eng.FrameOk) (hp : s.eng.phase ≠ .idle) :
    (∃ r, s.eng.slotsLeft ≠ 0 ∧ slotFailure P s = some r ∧ frameStep P s = failSlot P r (useSlot s)) ∨
      ((frameStep P s).eng.FrameOk ∧ (frameStep P s).eng.eventsLeft + 1 = s.eng.eventsLeft ∧
        (s.SlotsOk s.eng.slotsLeft → (frameStep P s).SlotsOk (frameStep P s).eng.slotsLeft)) := by
  obtain ⟨hl, hc, hi, hcs⟩ := h
  cases hph : s.eng.phase with
  | idle => exact absurd hph hp
  | loaded =>
    simp only [frameStep, hph]
    rw [Engine.slotsLeft_of_loaded hph]
    exact .inr ⟨⟨hl, hc, fun _ => hl, fun _ => rfl⟩,
      by simp [Engine.eventsLeft, Engine.slotsLeft, assertStep, driveCsLow, hph], id⟩
  | command =>
    have hok := afterCommandByte_frameOk ⟨hl, hc, hi, hcs⟩ hph
    have hsl := afterCommandByte_slotsLeft ⟨hl, hc, hi, hcs⟩ hph
    have hw : s.eng.phase.windowOpen = true := by rw [hph]; rfl
    rw [← hsl, Engine.eventsLeft_of_windowOpen hw, ← hsl]
    cases hf : slotFailure P s with
    | some r => exact .inl ⟨r, Nat.succ_ne_zero _, rfl, frameStep_of_slotFailure (.inl hph) hf⟩
    | none =>
      simp only [frameStep, hph, commandStep, hf]
      exact .inr ⟨hok, congrArg (· + 1) (Engine.eventsLeft_of_windowOpen (afterCommandByte_windowOpen s.eng)),
        fun hs => (hs.head (P := P)).2⟩
  | reply =>
    have hlow : s.eng.cs = .low := hcs (by rw [hph]; rfl)
    cases hf : slotFailure P s with
    | some r => exact .inl ⟨r, by simp [Engine.slotsLeft, hph], rfl, frameStep_of_slotFailure (.inr hph) hf⟩
    | none =>
      simp only [frameStep, hph, replyStep, hf]
      exact .inr ⟨⟨hl, hc, nofun, fun _ => hlow⟩, by simp [Engine.eventsLeft, Engine.slotsLeft, hph], fun _ => nofun⟩
  | release =>
    simp only [frameStep, hph]
    exact .inr ⟨⟨hl, hc, nofun, nofun⟩,
      by simp [Engine.eventsLeft, Engine.slotsLeft, releaseStep, driveCsHigh, hph], fun _ => nofun⟩

/-- Every step of a frame in progress leaves fewer steps (R133). -/
theorem frameStep_eventsLeft_lt (P : Params) (h : s.eng.FrameOk) (hp : s.eng.phase ≠ .idle) :
    (frameStep P s).eng.FrameOk ∧ (frameStep P s).eng.eventsLeft < s.eng.eventsLeft := by
  obtain ⟨r, -, -, hr⟩ | ⟨hok, he, -⟩ := frameStep_cases P h hp
  · obtain ⟨hok, he⟩ := failSlot_frameOk (P := P) r h
    rw [hr, he]
    exact ⟨hok, Nat.pos_of_ne_zero (mt Engine.eventsLeft_eq_zero_iff.mp hp)⟩
  · exact ⟨hok, by omega⟩

/-- If the coming slots succeed, a step of a frame in progress leaves exactly one step fewer (R133). -/
theorem frameStep_eventsLeft_of_slotsOk (P : Params) (h : s.eng.FrameOk) (hs : s.SlotsOk s.eng.slotsLeft)
    (hp : s.eng.phase ≠ .idle) :
    (frameStep P s).SlotsOk (frameStep P s).eng.slotsLeft ∧ (frameStep P s).eng.eventsLeft + 1 = s.eng.eventsLeft := by
  obtain ⟨r, hn, hr, -⟩ | ⟨-, he, hk⟩ := frameStep_cases P h hp
  · obtain ⟨n, hn⟩ := Nat.exists_eq_add_one_of_ne_zero hn
    rw [hn] at hs
    exact absurd (hs.head.1.symm.trans hr) nofun
  · exact ⟨hk hs, he⟩

/-- With no frame in progress the frame machine has no step (R128). -/
theorem frameSteps_of_idle (P : Params) (n : Nat) (hp : s.eng.phase = .idle) : frameSteps P n s = s := by
  induction n with
  | zero => rfl
  | succ n ih => rw [frameSteps, frameStep, hp]; exact ih

/-- A frame is over after the steps that were left (R133). -/
theorem frameSteps_idle (P : Params) {n : Nat} (h : s.eng.FrameOk) (hn : s.eng.eventsLeft ≤ n) :
    (frameSteps P n s).eng.phase = .idle := by
  induction n generalizing s with
  | zero => exact Engine.eventsLeft_eq_zero_iff.mp (Nat.le_zero.mp hn)
  | succ n ih =>
    by_cases hp : s.eng.phase = .idle
    · rwa [frameSteps_of_idle P _ hp]
    · obtain ⟨hok, hlt⟩ := frameStep_eventsLeft_lt P h hp
      exact ih hok (by omega)

/-- A frame is not over before if its slots succeed (R133). -/
theorem frameSteps_ne_idle (P : Params) {k : Nat} (h : s.eng.FrameOk) (hs : s.SlotsOk s.eng.slotsLeft)
    (hk : k < s.eng.eventsLeft) : (frameSteps P k s).eng.phase ≠ .idle := by
  have hp : s.eng.phase ≠ .idle := mt Engine.eventsLeft_eq_zero_iff.mpr (by omega)
  induction k generalizing s with
  | zero => exact hp
  | succ k ih =>
    obtain ⟨hok, -⟩ := frameStep_eventsLeft_lt P h hp
    obtain ⟨hs', he⟩ := frameStep_eventsLeft_of_slotsOk P h hs hp
    exact ih hok hs' (by omega) (mt Engine.eventsLeft_eq_zero_iff.mpr (by omega))

end FrameSteps

/-- Settles O9: every step leaves fewer of the frame's four steps, and one fewer if no slot fails. -/
theorem loadedFrameEndsAfterFourSteps : Obligations.LoadedFrameEndsAfterFourSteps := by
  unfold Obligations.LoadedFrameEndsAfterFourSteps
  intro P s hp hf
  have hn : s.eng.len + s.eng.cap = 2 := by omega
  have hok : s.eng.FrameOk := Engine.frameOk_of_loaded hp (by omega) (by omega)
  have he := Engine.eventsLeft_of_twoSlots hp hn
  have hs := (Engine.slotsLeft_of_loaded hp).trans hn
  exact ⟨frameSteps_idle P hok he.le, fun h k hk => frameSteps_ne_idle P hok (hs ▸ h) (he ▸ hk)⟩

/-! ### A slot that fails (R131) -/

/-- Settles O18: what `failSlot` does to each part of the state; the target ends in a failed window. -/
theorem failingSlotClosesTheWindowAndRaises : Obligations.FailingSlotClosesTheWindowAndRaises := by
  unfold Obligations.FailingSlotClosesTheWindowAndRaises
  intro P s
  refine ⟨fun hc => by simp [slotFailure, hc], fun r hp hr => ?_⟩
  rw [frameStep_of_slotFailure hp hr]
  exact ⟨List.append_assoc .., rfl, rfl, rfl, failedWindow_refused P s.eng.writeData s.tgt⟩

/-! ### The loaded command (R122, R129) -/

section Fetch
variable {P : Params} {s : State} {i : Instr}

/-- What the engine is about to send: a frame is loaded whose bytes and reply slots are a command's (R94, R122). -/
theorem fetch_eq_some_iff :
    fetch s = some i ↔
      s.eng.phase = .loaded ∧ decodeCommand s.eng.cmdBytes = .ok i ∧ s.eng.cap = i.opcode.format.replyBytes := by
  unfold fetch Engine.loadedCommand
  cases s.eng.phase with
  | loaded =>
    cases decodeCommand s.eng.cmdBytes with
    | error e => simp
    | ok j =>
      simp only [Option.ite_none_right_eq_some, Option.some.injEq, Except.ok.injEq, true_and]
      rw [and_comm]
      exact and_congr_right fun hj => by rw [hj]
  | idle | command | reply | release => simp

theorem Engine.cmdBytes_eq_pair_iff {E : Engine} {b c : Byte} :
    E.cmdBytes = [b, c] ↔ E.len = 2 ∧ E.cmd0 = b ∧ E.cmd1 = c := by
  unfold Engine.cmdBytes
  split_ifs <;> simp_all

theorem Engine.cmdBytes_eq_singleton_iff {E : Engine} {b : Byte} : E.cmdBytes = [b] ↔ E.len = 1 ∧ E.cmd0 = b := by
  unfold Engine.cmdBytes
  split_ifs <;> simp_all

/-- A command's bytes and reply slots in the buffer are its frame (R122). -/
theorem Engine.holds_of_cmdBytes {E : Engine} (hb : E.cmdBytes = encode i) (hc : E.cap = i.opcode.format.replyBytes) :
    E.Holds i.frameReq := by
  cases i with
  | rstif | setptr | wrptr =>
    obtain ⟨hl, h0, h1⟩ := Engine.cmdBytes_eq_pair_iff.mp hb
    exact ⟨h0, hl, hc, fun _ => h1⟩
  | rdptr =>
    obtain ⟨hl, h0⟩ := Engine.cmdBytes_eq_singleton_iff.mp hb
    exact ⟨h0, hl, hc, nofun⟩

/-- The window of a fetched command is the run of the frame machine from where it stands (R129). -/
theorem sendFrame_of_fetch (h : fetch s = some i) : sendFrame P i.frameReq s = frameSteps P 4 s := by
  obtain ⟨hp, hd, hc⟩ := fetch_eq_some_iff.mp h
  rw [sendFrame, loadFrame_of_holds hp (Engine.holds_of_cmdBytes (decodeCommand_eq_ok_iff.mp hd) hc)]

/-- A fetched command's frame has one or two command bytes and two slots (R96, R122). -/
theorem twoSlots_of_fetch (h : fetch s = some i) :
    s.eng.len = 1 ∧ s.eng.cap = 1 ∨ s.eng.len = 2 ∧ s.eng.cap = 0 := by
  obtain ⟨-, hd, hc⟩ := fetch_eq_some_iff.mp h
  obtain ⟨-, hl, hc, -⟩ := Engine.holds_of_cmdBytes (decodeCommand_eq_ok_iff.mp hd) hc
  rcases frameReq_format i with ⟨c0, c1, hf⟩ | ⟨c0, c1, hf⟩ <;> rw [hf] at hl hc
  · exact .inr ⟨hl, hc⟩
  · exact .inl ⟨hl, hc⟩

end Fetch

/-- Settles O6: the loaded command is fetched and executed, and the step ends as every step does. -/
theorem stepRunsTheLoadedCommand : Obligations.StepRunsTheLoadedCommand := by
  unfold Obligations.StepRunsTheLoadedCommand
  intro s i hp hd _ hc
  rw [step_eq_stepWith, stepWith_of_fetch (fetch_eq_some_iff.mpr ⟨hp, hd, hc⟩), exec_eq]
  rfl

/-! ### A window as the run of its events (R129) -/

section EventRun
variable {P : Params} {s : State}

/-- A step of the frame machine ends the frame or leaves its window open (R127). -/
theorem frameStep_windowOpen (hq : (frameStep P s).eng.phase ≠ .idle) :
    (frameStep P s).eng.phase.windowOpen = true := by
  cases hph : s.eng.phase <;> simp only [frameStep, hph] at hq ⊢
  case idle => exact absurd rfl hq
  case loaded => rfl
  case command =>
    cases hf : slotFailure P s <;> simp only [commandStep, hf] at hq ⊢
    case some r => exact absurd rfl hq
    case none => exact afterCommandByte_windowOpen s.eng
  case reply =>
    cases hf : slotFailure P s <;> simp only [replyStep, hf] at hq ⊢
    case some r => exact absurd rfl hq
    case none => rfl
  case release => exact absurd rfl hq

/-- A step of a frame in progress is a step of the frame machine and what every step ends with (R128). -/
theorem eventStep_of_frame (h : s.eng.FrameOk) (hp : s.eng.phase ≠ .idle) :
    eventStep P s = .next (settle P (frameStep P s)) := by
  obtain ⟨-, -, hi, -⟩ := h
  unfold eventStep eventCore
  cases hph : s.eng.phase with
  | idle => exact absurd hph hp
  | command => simp [frameEnabled, hph, hi hph, settleOutcome]
  | loaded | reply | release => rfl

/-- Inside a window the sequencer and the chip have no move (R44, R194). -/
theorem settle_frameStep (h : s.eng.FrameOk) (hp : s.eng.phase ≠ .idle) (hq : (frameStep P s).eng.phase ≠ .idle) :
    settle P (frameStep P s) = frameStep P s := by
  obtain ⟨⟨-, -, -, hcs⟩, -⟩ := frameStep_eventsLeft_lt P h hp
  rw [settle, sequencerMove_of_phase hq, envTurn_eq_self (.inl (hcs (frameStep_windowOpen hq)))]

/-- Running a frame event by event gives the frame machine's state when the frame is over, and what every step ends
with (R129). -/
theorem eventRun_frame {n : Nat} (h : s.eng.FrameOk) (hp : s.eng.phase ≠ .idle) (hn : s.eng.eventsLeft ≤ n) :
    ∃ m, m ≤ n ∧ (frameSteps P m s).eng.phase = .idle ∧ eventRun P m s = .next (settle P (frameSteps P n s)) := by
  induction n generalizing s with
  | zero => exact absurd (Engine.eventsLeft_eq_zero_iff.mp (Nat.le_zero.mp hn)) hp
  | succ n ih =>
    obtain ⟨hok, hlt⟩ := frameStep_eventsLeft_lt P h hp
    by_cases hq : (frameStep P s).eng.phase = .idle
    · refine ⟨1, by omega, hq, ?_⟩
      simp only [eventRun, eventStep_of_frame h hp, frameSteps, frameSteps_of_idle P n hq]
    · obtain ⟨m, hm, hidle, hrun⟩ := ih hok hq (by omega)
      refine ⟨m + 1, by omega, hidle, ?_⟩
      simp only [eventRun, eventStep_of_frame h hp, settle_frameStep h hp hq, hrun, frameSteps]

end EventRun

/-- Settles O8: the two machines go together until the frame is over, which is after four events if no slot fails. -/
theorem windowStepIsItsEventSteps : Obligations.WindowStepIsItsEventSteps := by
  unfold Obligations.WindowStepIsItsEventSteps
  intro P s i hf
  have hp := fetch_loaded hf
  have htwo := twoSlots_of_fetch hf
  have hok : s.eng.FrameOk := Engine.frameOk_of_loaded hp (by omega) (by omega)
  have hle : s.eng.eventsLeft ≤ 4 := (Engine.eventsLeft_of_twoSlots hp (by omega)).le
  obtain ⟨m, hm, hidle, hrun⟩ := eventRun_frame (P := P) hok (by simp [hp]) hle
  rw [← sendFrame_of_fetch hf, ← stepWith_of_fetch hf] at hrun
  refine ⟨fun hs => ?_, m, hm, hrun⟩
  obtain ⟨-, hnot⟩ := loadedFrameEndsAfterFourSteps P s hp htwo
  obtain rfl : m = 4 := hm.eq_of_not_lt fun hlt => hnot hs m hlt hidle
  exact hrun

/-! ### Chip-select (R127) -/

theorem Phase.windowOpen_iff {p : Phase} : p.windowOpen = true ↔ p = .command ∨ p = .reply ∨ p = .release := by
  cases p <;> simp [Phase.windowOpen]

/-- An idle engine in its invariant has no frame in progress (R28). -/
theorem Engine.Inv.phase_of_stage_idle {E : Engine} (h : E.Inv) (hs : E.stage = .idle) : E.phase = .idle := by
  obtain ⟨h1, -⟩ := h
  simp only [Engine.StageOk, hs] at h1
  exact h1.2

/-- No frame is in progress during the reset pulse (R284 to R286). -/
theorem Engine.Inv.phase_of_rst_high {E : Engine} (h : E.Inv) (hr : E.rst = .high) : E.phase = .idle := by
  by_contra hp
  obtain ⟨-, -, -, -, -, hlow, -⟩ := h.sending hp
  exact absurd (hr.symm.trans hlow) nofun

/-- Settles O32: the clause of the engine's invariant about chip-select, after every event. -/
theorem chipSelectIsLowExactlyInAWindow : Obligations.ChipSelectIsLowExactlyInAWindow := by
  unfold Obligations.ChipSelectIsLowExactlyInAWindow
  intro P s t h hst ht
  have hi := eventStep_inv h hst
  have ⟨_, _, _, ⟨_, hcs⟩, _⟩ := hi
  have hcs := hcs ht
  have high (hw : t.eng.phase.windowOpen = false) : t.eng.cs = .high := by simpa [hw] using hcs
  have idle (hp : t.eng.phase = .idle) : t.eng.cs = .high := high (by rw [hp]; rfl)
  rw [← Phase.windowOpen_iff]
  refine ⟨?_, fun hw => high (by simpa using hw), fun hs => idle (hi.phase_of_stage_idle hs),
    fun hp => high (by rw [hp]; rfl), fun hr => idle (hi.phase_of_rst_high hr)⟩
  rw [hcs]
  cases t.eng.phase.windowOpen <;> simp

/-! ### No state of the invariant is stuck (R128, R207) -/

/-- The outcomes a step may have in a state of the invariant: the next state, or a refusal of what has no meaning
(R230) or no move (R301). -/
inductive MayEnd (s : State) : Host.Outcome State Fault Refusal → Prop
  | next (t : State) : MayEnd s (.next t)
  | unreliable (rest : List ClientOp) : s.inputs.ops = .writeAllThresholds :: rest →
      MayEnd s (.refused .knownUnreliable)
  | sharedPins (p : PinId) (rest : List ClientOp) :
      s.inputs.ops = .initSpi p p :: rest ∨ s.inputs.ops = .request (.initSpi p p) :: rest →
      MayEnd s (.refused .sharedPins)

section Stuck
variable {P : Params} {s : State}

/-- The only operation that is unreliable from the start is the write to all thresholds (R230). -/
theorem clientStart_unreliable {op : ClientOp} (h : clientStart P op = .unreliable) : op = .writeAllThresholds := by
  unfold clientStart at h
  split at h <;> (try split at h) <;> simp_all

theorem clientContinue_ne_unreliable {k : ClientTask} {r : Response} : clientContinue P k r ≠ .unreliable := by
  unfold clientContinue configureMove
  split <;> (try split) <;> simp

/-- The only requests with shared pins are those the caller asks for (R301). -/
theorem clientStart_sharedPins {op : ClientOp} {q : Request} {c : ClientTask} (h : clientStart P op = .ask q c)
    (hq : q.pinsOk = false) : ∃ p, op = .initSpi p p ∨ op = .request (.initSpi p p) := by
  have shared : ∃ p, q = .initSpi p p := by
    cases q <;> simp_all [Request.pinsOk]
  obtain ⟨p, rfl⟩ := shared
  unfold clientStart at h
  split at h <;> (try split at h) <;> simp_all

/-- The client layer's move ends in a refusal only for what has no meaning or no move. -/
theorem clientMove_mayEnd (P : Params) (m : ClientMove) (u : State)
    (hm : m = .unreliable → MayEnd s (.refused .knownUnreliable))
    (hq : ∀ q c, m = .ask q c → q.pinsOk = false → MayEnd s (.refused .sharedPins)) :
    MayEnd s (clientMove P m u) := by
  unfold clientMove
  cases m with
  | ask q c =>
    dsimp only
    split
    · exact .next _
    · exact hq q c rfl (Bool.eq_false_of_not_eq_true ‹_›)
  | done r => exact .next _
  | unreliable => exact hm rfl

/-- The requester of a quiescent engine is never stuck: a response is there if it waits for one (R204, R207). -/
theorem requesterStep_mayEnd (hs : s.eng.stage = .idle) (h : s.ClientOk) : MayEnd s (requesterStep P s) := by
  unfold requesterStep
  split
  · exact .next _
  case h_2 op rest _ hops =>
    refine clientMove_mayEnd P _ _ (fun hm => .unreliable rest (clientStart_unreliable hm ▸ hops)) fun q c hm hq => ?_
    obtain ⟨p, rfl | rfl⟩ := clientStart_sharedPins hm hq
    · exact .sharedPins p rest (.inl hops)
    · exact .sharedPins p rest (.inr hops)
  · refine clientMove_mayEnd P _ _ (fun hm => absurd hm clientContinue_ne_unreliable) fun q c hm hq => ?_
    simp [clientContinue_pinsOk hm] at hq
  case h_4 hresp hnil hcons =>
    have hcl : s.client ≠ .idle := fun hcl => by
      cases hops : s.inputs.ops with
      | nil => exact hnil hcl hops
      | cons op rest => exact hcons op rest hcl hops
    exact absurd hresp (h hcl hs)

/-- A stage of the invariant with no frame in progress has a step (R128). -/
theorem stageStep_mayEnd (h : s.eng.StageOk) (hp : s.eng.phase = .idle) (hc : s.ClientOk) :
    MayEnd s (stageStep P s) := by
  cases hs : s.eng.stage <;> simp only [Engine.StageOk, hs] at h <;> simp only [stageStep, hs]
  case idle => exact requesterStep_mayEnd hs hc
  case pins | rstHigh | rstHold => exact .next _
  case rstLow => obtain ⟨⟨ho, -⟩ | ⟨ho, -⟩, -⟩ := h <;> rw [ho] <;> exact .next _
  case i2c => obtain ⟨ho | ho, -⟩ := h <;> rw [ho] <;> exact .next _
  case rstif | ptr | acc => exact absurd hp h.2.2

theorem settleOutcome_mayEnd {o : Host.Outcome State Fault Refusal} (h : MayEnd s o) :
    MayEnd s (settleOutcome P o) := by
  cases h with
  | next t => exact .next _
  | unreliable rest h => exact .unreliable rest h
  | sharedPins p rest h => exact .sharedPins p rest h

/-- From the machine's invariant every step has one of these outcomes: with a frame loaded there is a command to send,
else the stage has a step. -/
theorem State.Inv.stepWith_mayEnd (h : s.Inv P) : MayEnd s (stepWith P s) := by
  obtain ⟨he, hc, ⟨hp | hp, -⟩, -⟩ := h
  · have hf : fetch s = none := by simp [fetch, hp]
    have ⟨hst, _⟩ := he
    simp only [stepWith, hf, eventStep, eventCore, hp]
    exact settleOutcome_mayEnd (stageStep_mayEnd hst hp hc)
  · obtain ⟨i, hf, -⟩ := he.fetch hp
    rw [stepWith_of_fetch hf]
    exact .next _

end Stuck

/-- Settles O33: the outcomes a step may have in a state of the invariant are read off. -/
theorem noReachableStateIsStuck : Obligations.NoReachableStateIsStuck := by
  unfold Obligations.NoReachableStateIsStuck
  intro s h
  have hm := h.stepWith_mayEnd
  rw [← step_eq_stepWith] at hm
  generalize step s = o at hm ⊢
  cases hm with
  | next t => exact ⟨nofun, nofun⟩
  | unreliable rest hops =>
    refine ⟨nofun, ?_⟩
    rintro _ ⟨⟩
    exact .inl ⟨rfl, rest, hops⟩
  | sharedPins p rest hops =>
    refine ⟨nofun, ?_⟩
    rintro _ ⟨⟩
    exact .inr ⟨rfl, p, rest, hops⟩

end Sys2Proof.Machine
end

section
/-! PROOFS. 41_wire_commands: a window at the target (R155 to R160), the four commands with their effect, refused and
cut off (R151 to R154, R160, R252), and what of it the initiator does not see (R160, R162). -/

namespace Sys2Proof.Machine

/-! ### A window of two slots at the target (R155) -/

section Windows
variable {P : Params} {T : Target}

/-- An `RSTIF` window, from any state of the parser (R151). -/
theorem window_rstif (P : Params) (T : Target) :
    targetWindow P [opRstif, opRstif] T =
      { T with
        ptr := P.freePtr (T.draws + 2), ptrValid := false, known := true, ps := .idle, hold := opRstif, wrote := none,
        draws := T.draws + 3 } := by
  simp [targetWindow, tgtSlots, tgtSlot, slotEffect, tgtCsLow, dispatchOpcode, tgtCsHigh, nextDraw, closeWindow,
    becomeKnown, losePtr]

/-- A command other than `RSTIF` whose precondition fails is refused at its op-code (R157). -/
theorem dispatchOpcode_bad_of_precondition_fails {i : Instr} (hi : i ≠ .rstif)
    (h : T.known = false ∨ (∀ a, i ≠ .setptr a) ∧ T.ptrValid = false) : dispatchOpcode T i.frameReq.c0 = .bad := by
  rcases h with hk | ⟨ha, hv⟩
  · cases i with
    | rstif => exact absurd rfl hi
    | setptr | wrptr | rdptr => simp [dispatchOpcode, hk, Instr.frameReq, opSetptr, opWrptr, opRdptr, opRstif]
  · cases i with
    | rstif => exact absurd rfl hi
    | setptr a => exact absurd rfl (ha a)
    | wrptr | rdptr => simp [dispatchOpcode, hv, Instr.frameReq, opSetptr, opWrptr, opRdptr, opRstif]

/-- A window refused at its op-code is refused, and no register changes (R158 to R160). -/
theorem window_of_dispatch_bad {b : Byte} (h : dispatchOpcode T b = .bad) (c : Byte) :
    (targetWindow P [b, c] T).Refused ∧ (targetWindow P [b, c] T).rf = T.rf := by
  obtain ⟨hps, hrf⟩ := tgtSlot_bad P c (T := tgtSlot P b (tgtCsLow T)) h
  refine ⟨tgtCsHigh_refused P ?_ ?_, (tgtCsHigh_rf P _).trans hrf⟩
  · simp [tgtSlots, hps]
  · simp [tgtSlots, hps]

/-- Where the pointed register is implemented and readable, a read gives its content (R63). -/
theorem memRead_of_readable {a : Byte} (hi : P.implemented a = true) (hr : P.readable a = true) :
    memRead P T a = T.rf.read P a := by
  simp [memRead, hi, hr]

theorem drawEither_eq_or (P : Params) (T : Target) (old v : Byte) :
    drawEither P T old v = v ∨ drawEither P T old v = old := by
  unfold drawEither
  split_ifs
  · exact .inl rfl
  · exact .inr rfl

/-- A failed write leaves the pointed register with the datum or its old byte (R160, R252). -/
theorem failedWindow_some_read_ptr (h : T.rf.wf P) (d : Byte) :
    (failedWindow P (some d) T).rf.read P T.ptr = d ∨
      (failedWindow P (some d) T).rf.read P T.ptr = T.rf.read P T.ptr := by
  unfold failedWindow
  rw [tgtCsHigh_rf]
  cases hv : T.ptrValid with
  | false => exact .inr (by simp [tgtXferFail, hv, nextDraw])
  | true =>
    simp only [tgtXferFail, hv, if_true, nextDraw, RegFile.read_write_same h]
    exact drawEither_eq_or P T _ d

/-- A complete write with a surplus slot writes the pointed register twice: the datum, and then the draw between the
datum and the old byte (R159, R160). -/
theorem window_surplus_rf (hk : T.known = true) (hv : T.ptrValid = true) (d b : Byte) :
    ∃ v, (v = d ∨ v = T.rf.read P T.ptr) ∧
      (targetWindow P [opWrptr, d, b] T).rf =
        (memWrite P T.ptr d (tgtSlot P opWrptr (tgtCsLow T))).rf.write P T.ptr v := by
  refine ⟨_, drawEither_eq_or P (tgtSlot P d (tgtSlot P opWrptr (tgtCsLow T))) _ d, (tgtCsHigh_rf P _).trans ?_⟩
  simp [tgtSlots, tgtSlot, slotEffect, tgtCsLow, dispatchOpcode, nextDraw, applyWrite, losePtr, memWrite, undoDraw,
    opWrptr, opSetptr, opRstif, hk, hv]

end Windows

/-- Settles O21: each complete command by the equation of its window; every other window ends in no complete
command. -/
theorem targetWindowFollowsTheSummary : Obligations.TargetWindowFollowsTheSummary := by
  unfold Obligations.TargetWindowFollowsTheSummary
  intro P T m _
  refine ⟨tgtCsHigh_idle P _, ?_, ?_, ?_, ?_, ?_⟩
  · rintro rfl
    rw [show targetWindow P [0x7A, 0x7A] T = _ from window_rstif P T]
    exact ⟨rfl, rfl, rfl, rfl⟩
  · rintro a hk rfl
    rw [show targetWindow P [0x7D, a] T = _ from window_setptr hk a]
    exact ⟨rfl, rfl, hk, rfl, rfl⟩
  · rintro d hk hv rfl
    rw [show targetWindow P [0x7E, d] T = _ from window_wrptr hk hv d]
    exact ⟨rfl, rfl, hk, rfl⟩
  · rintro f hk hv rfl
    rw [show targetWindow P [0x7F, f] T = _ from window_rdptr hk hv f]
    exact ⟨replyByte_rdptr hk hv, rfl, hk, rfl, rfl⟩
  · intro h0 h1 h2 h3
    by_contra hr
    exact (targetWindow_not_refused_iff.mp hr).elim h0 (·.elim h1 (·.elim h2 h3))

/-- Settles O23: the pointed register is written twice, and no other. -/
theorem surplusSlotAfterWriteLeavesEitherByte : Obligations.SurplusSlotAfterWriteLeavesEitherByte := by
  unfold Obligations.SurplusSlotAfterWriteLeavesEitherByte
  intro P T d b hwf hk hv
  have refused : (targetWindow P [0x7E, d, b] T).Refused := by
    by_contra hr
    simpa using targetWindow_not_refused_iff.mp hr
  obtain ⟨v, hor, hrf⟩ := window_surplus_rf (P := P) hk hv d b
  have hrf : (targetWindow P [0x7E, d, b] T).rf = _ := hrf
  have hwf : (tgtSlot P opWrptr (tgtCsLow T)).rf.wf P := hwf
  rw [hrf]
  refine ⟨refused, ?_, fun a ha => ?_⟩
  · rwa [RegFile.read_write_same (memWrite_wf hwf _ _)]
  · rw [RegFile.read_write_other P _ ha, memWrite_read_other ha]
    rfl

/-! ### Everything a command's frame can do (R129, R131) -/

/-- The state after a command's frame whose slot `k` failed with the report `r`, the slots before it having
succeeded. -/
def State.afterFailedWindow (P : Params) (i : Instr) (k : Nat) (r : FaultReport) (s : State) : State :=
  { s with
    eng := s.eng.afterFail i.frameReq k,
    tgt := failedWindow P (frameWriteData i.frameReq) (tgtSlots P ((lineBytes P i).take k) (tgtCsLow s.tgt)),
    response := some (.err (.transportError r)),
    inputs := { s.inputs with slotFaults := s.inputs.slotFaults.drop (k + 1) },
    trace := s.trace ++ ((windowTrace i 0).take (k + 1) ++ [.xferFail, .csHigh]),
    responses := s.responses ++ [.err (.transportError r)] }

section Frames
variable {P : Params} {s t : State} {i : Instr}

/-- A command's frame whose first slot fails. -/
theorem sendFrame_of_fail0 {r : FaultReport} (h : slotFailure P s = some r) :
    sendFrame P i.frameReq s = s.afterFailedWindow P i 0 r := by
  rw [sendFrame_fail0 P i.frameReq s (by cases i <;> simp [Instr.frameReq]) h]
  cases i <;> simp [State.afterFailedWindow, lineBytes, windowTrace, tgtSlots]

/-- A command's frame whose second slot is the first to fail. -/
theorem sendFrame_of_fail1 {r : FaultReport} (h0 : slotFailure P s = none) (h1 : slotFailure P (useSlot s) = some r) :
    sendFrame P i.frameReq s = s.afterFailedWindow P i 1 r := by
  have used : s.inputs.slotFaults.drop 2 = s.inputs.slotFaults.tail.tail := by simp [← List.drop_one]
  simp only [State.afterFailedWindow, used]
  cases i with
  | rstif | setptr | wrptr => exact sendFrame_f2_fail1 P _ _ s h0 h1
  | rdptr => exact sendFrame_f1r_fail1 P _ _ s h0 h1

/-- A command's frame neither of whose slots fails. -/
theorem sendFrame_of_complete (h0 : slotFailure P s = none) (h1 : slotFailure P (useSlot s) = none) :
    sendFrame P i.frameReq s = s.afterWindow P i (replyByte P opRdptr s.tgt) := by
  cases i with
  | rstif | setptr | wrptr => exact sendFrame_f2 P _ _ s h0 h1
  | rdptr => exact sendFrame_f1r P _ _ s h0 h1

/-- Everything a command's frame can do: one of its two slots fails, or it is complete. -/
theorem sendFrame_cases (P : Params) (i : Instr) (s : State) :
    (∃ k r, k ≤ 1 ∧ sendFrame P i.frameReq s = s.afterFailedWindow P i k r) ∨
      sendFrame P i.frameReq s = s.afterWindow P i (replyByte P opRdptr s.tgt) := by
  rcases slots_cases P s with ⟨r, h⟩ | ⟨h0, r, h1⟩ | ⟨h0, h1⟩
  · exact .inl ⟨0, r, by decide, sendFrame_of_fail0 h⟩
  · exact .inl ⟨1, r, by decide, sendFrame_of_fail1 h0 h1⟩
  · exact .inr (sendFrame_of_complete h0 h1)

/-- A command's frame delivers to `E.RX` only if it has a reply slot (R125). -/
theorem sendFrame_rx (P : Params) (s : State) (h : i ≠ .rdptr) : (sendFrame P i.frameReq s).eng.rx = s.eng.rx := by
  rcases sendFrame_cases P i s with ⟨k, r, -, hf⟩ | hf <;> rw [hf]
  · rfl
  · cases i with
    | rstif | setptr | wrptr => rfl
    | rdptr => exact absurd rfl h

/-- A read's frame leaves the operand latches of both sides alone (R40, R122). -/
theorem sendFrame_rdptr_operand (P : Params) (s : State) :
    (sendFrame P Instr.rdptr.frameReq s).tgt.hold = s.tgt.hold ∧
      (sendFrame P Instr.rdptr.frameReq s).eng.cmd1 = s.eng.cmd1 := by
  constructor
  · rcases sendFrame_tgt P .rdptr s with k | k | ⟨c, k⟩ <;> rw [k]
    · rfl
    · rfl
    · exact window_hold_rdptr P c s.tgt
  · rcases sendFrame_cases P .rdptr s with ⟨k, r, -, hf⟩ | hf <;> rw [hf] <;> rfl

/-- The frame of a command other than `WRPTR` changes no register, whether it takes effect, is refused or is cut off
(R151 to R153, R160). -/
theorem sendFrame_rf (P : Params) (s : State) (h : ∀ d, i ≠ .wrptr d) :
    (sendFrame P i.frameReq s).tgt.rf = s.tgt.rf := by
  have hc : i.frameReq.c0 ≠ opWrptr := by
    cases i with
    | wrptr d => exact absurd rfl (h d)
    | rstif | setptr | rdptr => simp [Instr.frameReq, opRstif, opSetptr, opWrptr, opRdptr]
  have hd : frameWriteData i.frameReq = none := by simp [frameWriteData, hc]
  rcases sendFrame_tgt P i s with k | k | ⟨c, k⟩ <;> rw [k]
  · rw [hd]; rfl
  · rw [hd]; rfl
  · exact window_rf c hc

end Frames

/-! ### The four commands (R151 to R154) -/

/-- A command whose slots succeed. -/
theorem exec_of_slotsOk {s : State} {i : Instr} {v : Byte} (h : s.SlotsOk 2)
    (hv : i = .rdptr → v = replyByte Config.params opRdptr s.tgt) : exec i s = .next (s.afterWindow Config.params i v) := by
  rw [exec_eq, sendFrame_of_slotsOk h hv]

/-- The first byte on the initiator's line is the op-code (R94). -/
theorem lineBytes_eq (P : Params) (i : Instr) : ∃ c, lineBytes P i = [i.frameReq.c0, c] := by
  cases i <;> exact ⟨_, rfl⟩

/-- Settles O10: by the equation of the `RSTIF` window. -/
theorem rstifMakesTheParserKnown : Obligations.RstifMakesTheParserKnown := by
  unfold Obligations.RstifMakesTheParserKnown
  intro s h
  refine ⟨_, exec_of_slotsOk (v := 0) h nofun, ?_⟩
  simp only [State.afterWindow, lineBytes, window_rstif, and_self]

/-- Settles O11: by the equation of the `SETPTR` window at a known parser. -/
theorem setptrPointsAtItsAddress : Obligations.SetptrPointsAtItsAddress := by
  unfold Obligations.SetptrPointsAtItsAddress
  intro addr s h hk
  refine ⟨_, exec_of_slotsOk (v := 0) h nofun, ?_⟩
  simp only [State.afterWindow, lineBytes, window_setptr hk, hk, and_self]

/-- Settles O12: by the equation of the `RDPTR` window with a valid pointer, whose reply slot carries the pointed
register. -/
theorem rdptrCapturesThePointedRegister : Obligations.RdptrCapturesThePointedRegister := by
  unfold Obligations.RdptrCapturesThePointedRegister
  intro s h hk hv
  refine ⟨_, replyByte Config.params opRdptr s.tgt, exec_of_slotsOk h fun _ => rfl, rfl, fun hi hr => ?_, ?_⟩
  · rw [replyByte_rdptr hk hv, memRead_of_readable hi hr]
    rfl
  · simp only [State.afterWindow, lineBytes, window_rdptr hk hv, hk, and_self]

/-- Settles O13: by the equation of the `WRPTR` window with a valid pointer, and what a register write stores. -/
theorem wrptrWritesThePointedRegister : Obligations.WrptrWritesThePointedRegister := by
  unfold Obligations.WrptrWritesThePointedRegister
  intro data s h hk hv hwf
  have hwf : (tgtSlot Config.params opWrptr (tgtCsLow s.tgt)).rf.wf Config.params := hwf
  refine ⟨_, exec_of_slotsOk (v := 0) h nofun, ?_⟩
  simp only [State.afterWindow, lineBytes, window_wrptr hk hv, memWrite_read_same hwf, hk, and_self, and_true]
  exact ⟨fun hi hw => storedByte_of_writable hi hw data, storedByte_eq_or Config.params _ _ data⟩

/-- Settles O14: the window is refused at its op-code, and the initiator sends it to its end. -/
theorem commandWithoutPreconditionIsRefused : Obligations.CommandWithoutPreconditionIsRefused := by
  unfold Obligations.CommandWithoutPreconditionIsRefused
  intro i s h hi hpre
  obtain ⟨c, hc⟩ := lineBytes_eq Config.params i
  have bad := dispatchOpcode_bad_of_precondition_fails hi hpre
  obtain ⟨hr, hrf⟩ := window_of_dispatch_bad (P := Config.params) bad c
  rw [← hc] at hr hrf
  exact ⟨_, _, exec_of_slotsOk h fun _ => rfl, hr, hrf, rfl, rfl, Engine.afterFrame_stage _ _ _⟩

/-- Settles O15: what no frame touches, and of what frames touch, what a command's frame leaves alone. -/
theorem commandsLeaveTheRestUnchanged : Obligations.CommandsLeaveTheRestUnchanged := by
  unfold Obligations.CommandsLeaveTheRestUnchanged
  intro i s t h
  obtain rfl : sendFrame Config.params i.frameReq s = t := by simpa [exec_eq] using h
  obtain ⟨htr, ha, hcs, hrp, had, hda, hrst, hcl, hops, hi2c, henv, hres, hcalls⟩ :=
    sendFrame_sameOutside Config.params i.frameReq s
  refine ⟨htr, ha, hcs, hrp, had, hda, hrst, sendFrame_rx _ s, ?_, fun a hne => sendFrame_read_other fun _ => hne,
    sendFrame_rf _ s, hcl, hops, hi2c, henv, hres, hcalls, fun hs => ?_⟩
  · rintro rfl
    exact sendFrame_rdptr_operand _ s
  · rw [sendFrame_of_slotsOk hs fun _ => rfl]
    exact ⟨Engine.afterFrame_stage _ _ i, Engine.afterFrame_op _ _ i, rfl, rfl⟩

/-- Settles O16: by the equation of each command's window. -/
theorem effectiveCommandsKeepTheOtherFlags : Obligations.EffectiveCommandsKeepTheOtherFlags := by
  unfold Obligations.EffectiveCommandsKeepTheOtherFlags
  intro i s t h hs hk hpre
  rw [exec_of_slotsOk hs fun _ => rfl] at h
  cases h
  simp only [State.afterWindow]
  cases i with
  | rstif => simp [lineBytes, window_rstif]
  | setptr a => simp [lineBytes, window_setptr hk, hk]
  | wrptr d => simp [lineBytes, window_wrptr hk (hpre nofun nofun), hk]
  | rdptr => simp [lineBytes, window_rdptr hk (hpre nofun nofun), hk]

/-- Settles O20: the first slot of the window leaves the register file and the pointer as they are, and the failing
slot draws. -/
theorem failedWriteLeavesOldOrNewByte : Obligations.FailedWriteLeavesOldOrNewByte := by
  unfold Obligations.FailedWriteLeavesOldOrNewByte
  intro P d s r hwf hfail
  have drawn (U : Target) (hrf : U.rf = s.tgt.rf) (hp : U.ptr = s.tgt.ptr) :
      let T := failedWindow P (some d) U
      T.Refused ∧ (T.rf.read P s.tgt.ptr = d ∨ T.rf.read P s.tgt.ptr = s.tgt.rf.read P s.tgt.ptr) ∧
        ∀ a, a ≠ s.tgt.ptr → T.rf.read P a = s.tgt.rf.read P a := by
    have hwfU : U.rf.wf P := hrf ▸ hwf
    rw [← hrf, ← hp]
    exact ⟨failedWindow_refused P _ U, failedWindow_some_read_ptr hwfU d,
      fun a ha => failedWindow_some_read_other P d U ha⟩
  rcases hfail with h | ⟨h0, h1⟩
  · rw [sendFrame_of_fail0 h]
    exact drawn (tgtCsLow s.tgt) rfl rfl
  · rw [sendFrame_of_fail1 h0 h1]
    exact drawn (tgtSlot P opWrptr (tgtCsLow s.tgt)) rfl rfl

/-! ### What the initiator does not see (R160, R162) -/

/-- The two states have one initiator, trace and history of responses. -/
def SameInitiator (s t : State) : Prop := s.eng = t.eng ∧ s.trace = t.trace ∧ s.responses = t.responses

section Initiator
variable {P : Params} {s t : State} {i : Instr}

@[simp] theorem settle_trace (P : Params) (s : State) : (settle P s).trace = s.trace := by
  simp [settle]

/-- The sequencer's move does not depend on the capture register, and leaves it as it is (R194). -/
theorem sequencerMove_eng_but_rx {v : Byte} (h : t.eng = { s.eng with rx := v }) :
    (sequencerMove t).eng = { (sequencerMove s).eng with rx := v } := by
  unfold sequencerMove
  simp only [h]
  split <;> simp [h]

/-- What every step ends with depends on the initiator only, as far as the initiator goes (R44, R194). -/
theorem SameInitiator.settle (h : SameInitiator s t) : SameInitiator (settle P s) (settle P t) := by
  obtain ⟨he, ht, hr⟩ := h
  simp only [SameInitiator, Machine.settle, envTurn_eng, envTurn_trace, envTurn_responses]
  unfold sequencerMove
  simp only [he]
  split <;> simp [he, ht, hr]

/-- The reply byte goes to the capture register only (R125). -/
theorem Engine.afterFrame_but_rx (E : Engine) (v w : Byte) (i : Instr) :
    E.afterFrame v i = { E.afterFrame w i with rx := (E.afterFrame v i).rx } := by
  cases i <;> rfl

/-- A window that is cut off does not depend on the target (R131). -/
theorem afterFailedWindow_sameInitiator (P : Params) (i : Instr) (k : Nat) (r : FaultReport) (s : State) (T : Target) :
    SameInitiator (s.afterFailedWindow P i k r) ({ s with tgt := T }.afterFailedWindow P i k r) :=
  ⟨rfl, rfl, rfl⟩

/-- A window without a reply slot carries no byte of the target (R101). -/
theorem afterWindow_sameInitiator (hi : i ≠ .rdptr) (v w : Byte) (T : Target) :
    SameInitiator (s.afterWindow P i v) ({ s with tgt := T }.afterWindow P i w) := by
  cases i with
  | rstif | setptr | wrptr => exact ⟨rfl, rfl, rfl⟩
  | rdptr => exact absurd rfl hi

end Initiator

/-- Settles O17: with a failing slot the frame does not reach the target's byte, and in a complete one it goes to the
capture register and the trace only. -/
theorem initiatorDoesNotDependOnTheTarget : Obligations.InitiatorDoesNotDependOnTheTarget := by
  unfold Obligations.InitiatorDoesNotDependOnTheTarget
  intro P s T i hf
  refine ⟨_, _, stepWith_of_fetch hf, stepWith_of_fetch (s := { s with tgt := T }) hf, ?_⟩
  rcases slots_cases P s with ⟨r, h⟩ | ⟨h0, r, h1⟩ | ⟨h0, h1⟩
  · rw [sendFrame_of_fail0 h, sendFrame_of_fail0 (s := { s with tgt := T }) h]
    obtain ⟨he, ht, hr⟩ := (afterFailedWindow_sameInitiator P i 0 r s T).settle (P := P)
    exact ⟨by rw [he], fun _ => ⟨he, ht, hr⟩, fun k => absurd (k.symm.trans h) nofun⟩
  · rw [sendFrame_of_fail1 h0 h1, sendFrame_of_fail1 (s := { s with tgt := T }) h0 h1]
    obtain ⟨he, ht, hr⟩ := (afterFailedWindow_sameInitiator P i 1 r s T).settle (P := P)
    exact ⟨by rw [he], fun _ => ⟨he, ht, hr⟩, fun _ k => absurd (k.symm.trans h1) nofun⟩
  · rw [sendFrame_of_complete h0 h1, sendFrame_of_complete (s := { s with tgt := T }) h0 h1]
    refine ⟨?_, fun k => ?_, fun _ _ => ⟨_, _, settle_trace P _, settle_trace P _⟩⟩
    · rw [settle_eng, settle_eng]
      rw [sequencerMove_eng_but_rx (s := { s with tgt := T }.afterWindow P i _)
        (Engine.afterFrame_but_rx s.eng _ (replyByte P opRdptr T) i)]
    · have hi : i ≠ .rdptr := k.resolve_right (by simp [h0, h1])
      exact (afterWindow_sameInitiator hi _ _ T).settle

/-! ### The parser's state and the refusal mark through a step (R160) -/

section Known
variable {P : Params} {s t : State}

/-- What every step ends with changes the target's register file only (R44). -/
theorem settle_tgt (P : Params) (s : State) : ∃ rf, (settle P s).tgt = { s.tgt with rf := rf } := by
  obtain ⟨rf, h⟩ := envTurn_tgt P (sequencerMove s)
  exact ⟨rf, by rw [settle, h, sequencerMove_tgt]⟩

@[simp] theorem settle_tgt_known (P : Params) (s : State) : (settle P s).tgt.known = s.tgt.known := by
  obtain ⟨rf, h⟩ := settle_tgt P s
  rw [h]

@[simp] theorem settle_tgt_mark (P : Params) (s : State) : (settle P s).tgt.mark = s.tgt.mark := by
  obtain ⟨rf, h⟩ := settle_tgt P s
  rw [h]

/-- With no window open a stage's move leaves the parser's state alone, but for the reset pulse, after which it is not
known (R287). -/
theorem StageEffect.known_of_known (m : StageEffect P s t) (hps : s.tgt.ps = .idle) (h : t.tgt.known = true) :
    s.tgt.known = true := by
  cases m with
  | resetHigh => cases h
  | accepted ops c t hs ha => exact ha.tgt_eq hps ▸ h
  | afterResetSpi => simpa [Machine.afterResetSpi] using h
  | afterResetI2c => simpa [Machine.afterResetI2c] using h
  | wait | done | resetHold | resetLow | i2c => exact h

/-- Between windows only a step that runs `RSTIF` makes the parser known (R160). -/
theorem stepWith_makes_known (hst : stepWith P s = .next t) (hb : s.BetweenWindows) (h : s.tgt.known = false)
    (hk : t.tgt.known = true) : fetch s = some .rstif := by
  obtain ⟨hph, hps⟩ := hb
  obtain ⟨u, rfl, ⟨i, hf, rfl⟩ | ⟨-, hp, hu⟩ | ⟨-, hp, rfl⟩⟩ := stepWith_cases hst <;> rw [settle_tgt_known] at hk
  · exact sendFrame_makes_known h hk ▸ hf
  · exact absurd (((stageStep_effect hp hu).known_of_known hps hk).symm.trans h) nofun
  · rw [frameStep, hph.resolve_left hp] at hk
    exact absurd (hk.symm.trans h) nofun

theorem failSlot_mark (P : Params) (r : FaultReport) (s : State) : (failSlot P r s).tgt.mark = true := by
  obtain ⟨-, -, hm, -⟩ := failedWindow_refused P s.eng.writeData s.tgt
  exact hm

/-- No event of a frame clears the refusal mark (R160). -/
theorem frameStep_mark (P : Params) (h : s.tgt.mark = true) : (frameStep P s).tgt.mark = true := by
  have slot (b : Byte) : (tgtSlot P b s.tgt).mark = true := (tgtSlot_known_mark P b s.tgt).2.trans h
  cases hp : s.eng.phase <;> simp only [frameStep, hp]
  case idle => exact h
  case loaded => exact h
  case command =>
    unfold commandStep
    split
    · exact failSlot_mark P _ _
    · exact slot _
  case reply =>
    unfold replyStep
    split
    · exact failSlot_mark P _ _
    · exact slot _
  case release => exact tgtCsHigh_mark P h

theorem frameSteps_mark (P : Params) (n : Nat) (h : s.tgt.mark = true) : (frameSteps P n s).tgt.mark = true := by
  induction n generalizing s with
  | zero => exact h
  | succ n ih => exact ih (frameStep_mark P h)

/-- The acceptance of a request does not clear the refusal mark. -/
theorem Accepted.mark (m : Accepted P s t) (h : s.tgt.mark = true) : t.tgt.mark = true := by
  cases m with
  | initSpi => exact tgtCsHigh_mark P h
  | initI2c | rejected | i2c | spi => exact h

/-- No stage's move clears the refusal mark, nor does the reset pulse (R160, R287). -/
theorem StageEffect.mark (m : StageEffect P s t) (h : s.tgt.mark = true) : t.tgt.mark = true := by
  cases m with
  | accepted ops c t hs ha => exact ha.mark h
  | afterResetSpi => simpa [Machine.afterResetSpi] using h
  | afterResetI2c => simpa [Machine.afterResetI2c] using h
  | wait | done | resetHigh | resetHold | resetLow | i2c => exact h

/-- No step clears the refusal mark (R160). -/
theorem stepWith_mark (hst : stepWith P s = .next t) (h : s.tgt.mark = true) : t.tgt.mark = true := by
  obtain ⟨u, rfl, ⟨i, -, rfl⟩ | ⟨-, hp, hu⟩ | ⟨-, -, rfl⟩⟩ := stepWith_cases hst <;> rw [settle_tgt_mark]
  · exact frameSteps_mark P 4 h
  · exact (stageStep_effect hp hu).mark h
  · exact frameStep_mark P h

end Known

/-- Settles O24: a window that makes the parser known is an `RSTIF`, the stages' moves leave it as it is or reset it,
and nothing clears the mark. -/
theorem onlyRstifRestoresTheParser : Obligations.OnlyRstifRestoresTheParser := by
  unfold Obligations.OnlyRstifRestoresTheParser
  refine ⟨fun P T m h hk => window_makes_known h hk, fun s t hst hb h hk => ?_, fun s t hst h => ?_⟩
  · rw [step_eq_stepWith] at hst
    exact stepWith_makes_known hst hb h hk
  · rw [step_eq_stepWith] at hst
    exact stepWith_mark hst h

end Sys2Proof.Machine
end

section
/-! PROOFS. 42_composite_operations: what every step ends with as an equation of states (R44, R194), that no window is
refused as long as no transfer fails (R198), and that an uninitialised engine emits nothing (R190). -/

namespace Sys2Proof.Machine

/-! ### What a step ends with, continued (R44, R194) -/

/-- The chip has had its turn: it leaves this register file, and these changes are still to come. -/
def State.withChip (rf : RegFile) (changes : List (List (Byte × Byte))) (s : State) : State :=
  { s with tgt := { s.tgt with rf := rf }, inputs := { s.inputs with envChanges := changes } }

section Settle
variable {P : Params} {s t : State}

/-- Every step ends with the sequencer's move and the chip's turn, in which the registers outside `ENV_WRITES` keep
their contents (R44, R194). -/
theorem settle_eq_withChip (P : Params) (s : State) :
    ∃ rf changes, settle P s = (sequencerMove s).withChip rf changes ∧
      ∀ a, P.envWrites a = false → rf.read P a = s.tgt.rf.read P a := by
  rw [← sequencerMove_tgt s]
  by_cases h : (sequencerMove s).eng.cs = .low ∨ (sequencerMove s).eng.rst = .high
  · exact ⟨_, _, envTurn_eq_self h, fun _ _ => rfl⟩
  · exact ⟨_, _, if_neg h, fun a ha => applyChanges_read_other ha _ _⟩

/-- A stage's step, with the chip's turn at its end. -/
theorem stepWith_stage_withChip {u : State} (hp : s.eng.phase = .idle) (h : stageStep P s = .next t)
    (hq : sequencerMove t = u) :
    ∃ rf changes, stepWith P s = .next (u.withChip rf changes) ∧
      ∀ a, P.envWrites a = false → rf.read P a = t.tgt.rf.read P a := by
  obtain ⟨rf, changes, hw, hr⟩ := settle_eq_withChip P t
  exact ⟨rf, changes, by rw [stepWith_of_stage hp h, hw, hq], hr⟩

/-- The step of a loaded command, with the chip's turn at its end. -/
theorem stepWith_frame_withChip {i : Instr} {u : State} (hf : fetch s = some i)
    (h : sendFrame P i.frameReq s = t) (hq : sequencerMove t = u) :
    ∃ rf changes, stepWith P s = .next (u.withChip rf changes) ∧
      ∀ a, P.envWrites a = false → rf.read P a = t.tgt.rf.read P a := by
  obtain ⟨rf, changes, hw, hr⟩ := settle_eq_withChip P t
  exact ⟨rf, changes, by rw [stepWith_of_fetch hf, h, hw, hq], hr⟩

/-- The optional wait after the pulse emits its event, and nothing else (R288). -/
theorem postReset_eq (P : Params) (s : State) : postReset P s = { s with trace := s.trace ++ postResetTrace P } := by
  unfold postReset postResetTrace
  split
  · rw [List.append_nil]
  · rfl

/-- After the interface-reset window the initialisation is answered (R196). -/
theorem sequencerMove_rstif (hp : s.eng.phase = .idle) (hs : s.eng.stage = .rstif) (ho : s.eng.op = .initSpi) :
    sequencerMove s = s.finish .ok := by
  simp only [sequencerMove, hp, hs, ho]

end Settle

/-! ### Without a failing slot no window is refused (R198) -/

section Clean
variable {P : Params} {s t : State} {i : Instr}

theorem Instr.frameReq_injective : Function.Injective Instr.frameReq := by
  intro i j h
  cases i <;> cases j <;> simp_all [Instr.frameReq, opRstif, opSetptr, opWrptr, opRdptr]

/-- The command that an engine of the invariant is about to send: of the interface reset, or of the address or the
access window of a register request (R190, R194, R196). -/
theorem fetch_cases (h : s.eng.Inv) (hf : fetch s = some i) (v : Byte) :
    s.eng.stage = .rstif ∧ s.eng.op = .initSpi ∧ i = .rstif ∨
      s.eng.stage = .ptr ∧ i = .setptr s.eng.addr ∧
          (∃ q j r, Access s.eng.addr s.eng.data v q s.eng.op j r) ∨
        s.eng.stage = .acc ∧ ∃ q r, Access s.eng.addr s.eng.data v q s.eng.op i r := by
  obtain ⟨j, hj, hs, -⟩ := h.fetch (fetch_loaded hf)
  obtain rfl : i = j := Option.some.inj (hf.symm.trans hj)
  rcases hs with ⟨hs, ho, hi⟩ | ⟨hs, ho, hi⟩ | ⟨hs, ho, hi⟩ | ⟨hs, ho, hi⟩ <;>
    obtain rfl := Instr.frameReq_injective hi
  · exact .inl ⟨hs, ho, rfl⟩
  · refine .inr (.inl ⟨hs, rfl, ?_⟩)
    rcases ho with ho | ho <;> rw [ho]
    · exact ⟨_, _, _, .read⟩
    · exact ⟨_, _, _, .write⟩
  · exact .inr (.inr ⟨hs, by rw [ho]; exact ⟨_, _, .read⟩⟩)
  · exact .inr (.inr ⟨hs, by rw [ho]; exact ⟨_, _, .write⟩⟩)

theorem State.Clean.no_pointer (h : s.Clean) (hs : s.eng.stage ≠ .acc) : s.tgt.ptrValid = false := by
  obtain ⟨-, -, -, -, hv⟩ := h
  exact Bool.eq_false_iff.mpr fun k => hs (hv.mp k)

/-- With no pointer and no access window to come, the target is ready if its parser is known, or if no window comes
before the next interface reset. -/
theorem State.clean_of_no_pointer (hm : s.tgt.mark = false) (hv : s.tgt.ptrValid = false) (hs : s.eng.stage ≠ .acc)
    (hk : s.tgt.known = true ∨ s.eng.stage ≠ .ptr ∧ (s.eng.transport = .spi → s.eng.stage ≠ .idle)) : s.Clean := by
  refine ⟨hm, fun ht hi => ?_, fun hp => ?_, fun ha => absurd ha hs, fun k => absurd (hv.symm.trans k) nofun,
    fun ha => absurd ha hs⟩
  · exact hk.resolve_right fun ⟨_, k⟩ => k ht hi
  · exact hk.resolve_right fun ⟨k, _⟩ => k hp

/-- The chip's turn does not matter to the target's readiness (R44). -/
theorem State.Clean.settle (h : (sequencerMove s).Clean) : (settle P s).Clean := by
  obtain ⟨rf, ec, he, -⟩ := settle_eq_withChip P s
  rw [he]
  exact h

/-- A read's access frame delivers its reply byte (R125). -/
theorem Access.afterFrame_rx {a d v : Byte} {q : Request} {op : OpKind} {r : Response} (h : Access a d v q op i r)
    (ho : op = .rd) (E : Engine) : (E.afterFrame v i).rx = v := by
  cases h with
  | read => rfl
  | write => cases ho

/-- A register request's access window uses the pointer up, and is not refused (R153, R154). -/
theorem Access.window_flags {T : Target} {a d v : Byte} {q : Request} {op : OpKind} {r : Response}
    (h : Access a d v q op i r) (hk : T.known = true) (hv : T.ptrValid = true) :
    (targetWindow P (lineBytes P i) T).known = true ∧ (targetWindow P (lineBytes P i) T).ptrValid = false ∧
      (targetWindow P (lineBytes P i) T).mark = T.mark := by
  cases h with
  | read => simp only [lineBytes, window_rdptr hk hv, hk, and_self]
  | write => simp only [lineBytes, window_wrptr hk hv, hk, and_self]

/-- A window whose slots succeed is obeyed, and leaves the target ready for the window that comes next (R151 to R154,
R194). -/
theorem State.Clean.afterWindow (h : s.Clean) (hi : s.eng.Inv) (hf : fetch s = some i) (v : Byte) :
    (sequencerMove (s.afterWindow P i v)).Clean := by
  have ⟨hm, _, hptr, hacc, hv⟩ := h
  have hp : (s.afterWindow P i v).eng.phase = .idle := Engine.afterFrame_phase _ _ _
  have hst : (s.afterWindow P i v).eng.stage = s.eng.stage := Engine.afterFrame_stage _ _ _
  have hop : (s.afterWindow P i v).eng.op = s.eng.op := Engine.afterFrame_op _ _ _
  rcases fetch_cases hi hf v with ⟨hs, ho, rfl⟩ | ⟨hs, rfl, q, j, r, access⟩ | ⟨hs, q, r, access⟩
  · rw [sequencerMove_rstif hp (hst.trans hs) (hop.trans ho)]
    have target : (s.afterWindow P .rstif v).tgt = _ := window_rstif P s.tgt
    refine State.clean_of_no_pointer ?_ ?_ nofun (.inl ?_) <;> simp only [State.finish_tgt, target]
    exact hm
  · rw [access.sequencerMove_ptr hp (hst.trans hs) hop rfl]
    have target : (s.afterWindow P (.setptr s.eng.addr) v).tgt = _ := window_setptr (hptr hs) s.eng.addr
    refine ⟨?_, nofun, nofun, fun _ => ?_, fun _ => rfl, fun _ => ?_⟩ <;>
      simp only [State.accessing, loadFrame_tgt, State.onEngine_tgt, target]
    · exact hm
    · exact hptr hs
  · have rx : s.eng.op = .rd → (s.afterWindow P i v).eng.rx = v := fun k => access.afterFrame_rx k s.eng
    rw [access.sequencerMove_acc hp (hst.trans hs) hop rx]
    obtain ⟨hk, hv, hm'⟩ := access.window_flags (P := P) (hacc hs) (hv.mpr hs)
    exact State.clean_of_no_pointer (hm'.trans hm) hv nofun (.inl hk)

/-- An accepted request leaves the target ready: for a register request under SPI the parser is known, and an
initialisation begins with no window (R190, R195, R196). -/
theorem Accepted.clean (m : Accepted P s t) (h : s.Clean) (hs : s.eng.stage = .idle) (hps : s.tgt.ps = .idle) :
    t.Clean := by
  have ⟨hm, hk, _⟩ := h
  have hv : s.tgt.ptrValid = false := h.no_pointer (by simp [hs])
  cases m with
  | initSpi cs rst ht =>
    have ht : (setupSpi P cs rst s.takeResponse).tgt = s.tgt := tgtCsHigh_of_idle P hps
    exact State.clean_of_no_pointer (ht ▸ hm) (ht ▸ hv) nofun (.inr ⟨nofun, fun _ => nofun⟩)
  | initI2c | i2c => exact State.clean_of_no_pointer hm hv nofun (.inr ⟨nofun, fun _ => nofun⟩)
  | rejected c hc =>
    exact ⟨hm, fun ht _ => hk ht hs, nofun, nofun, fun k => absurd (hv.symm.trans k) nofun, nofun⟩
  | spi op a d ht ho => exact State.clean_of_no_pointer hm hv nofun (.inl (hk ht hs))

/-- A stage's move leaves the target ready: after the reset pulse no window comes before the interface reset
(R196, R287). -/
theorem StageMove.clean (m : StageMove P s t) (h : s.Clean) (hi : s.eng.StageOk) (hps : s.tgt.ps = .idle) :
    t.Clean := by
  have ⟨hm, _⟩ := h
  have no_window {u : State} (hm : u.tgt.mark = false) (hv : u.tgt.ptrValid = false)
      (hs : u.eng.stage ≠ .acc ∧ u.eng.stage ≠ .ptr ∧ (u.eng.transport = .spi → u.eng.stage ≠ .idle)) : u.Clean :=
    State.clean_of_no_pointer hm hv hs.1 (.inr hs.2)
  have under_i2c (hs : s.eng.stage = .i2c) : s.eng.transport = .i2c ∧ s.eng.phase = .idle := by
    simp_all [Engine.StageOk]
  have answered {e : Event} {r : Response} (hs : s.eng.stage = .i2c) : (((useI2c s).emit e).finish r).Clean := by
    obtain ⟨ht, -⟩ := under_i2c hs
    exact no_window hm (h.no_pointer (by simp [hs])) ⟨nofun, nofun, fun k => absurd (ht.symm.trans k) nofun⟩
  cases m with
  | wait | done => exact h
  | ask ops q c hs _ _ => exact (accept_accepted P q _).clean h hs hps
  | resetHigh hs => exact no_window hm rfl ⟨nofun, nofun, fun _ => nofun⟩
  | resetHold hs | resetLow hs => exact no_window hm (h.no_pointer (by simp [hs])) ⟨nofun, nofun, fun _ => nofun⟩
  | afterResetSpi hs ho =>
    rw [Machine.afterResetSpi, postReset_eq]
    exact no_window hm (h.no_pointer (by simp [hs])) ⟨nofun, nofun, fun _ => nofun⟩
  | afterResetI2c hs ho =>
    have ht : s.eng.transport = .i2c := by simp_all [Engine.StageOk]
    rw [Machine.afterResetI2c, postReset_eq]
    exact no_window hm (h.no_pointer (by simp [hs])) ⟨nofun, nofun, fun k => absurd (ht.symm.trans k) nofun⟩
  | i2cRead hs ho =>
    obtain ⟨e, r, k⟩ := i2cReadStep_ends P (under_i2c hs).2
    exact k ▸ answered hs
  | i2cWrite hs ho =>
    obtain ⟨e, r, k⟩ := i2cWriteStep_ends (under_i2c hs).2
    exact k ▸ answered hs

/-- A stage's move uses no slot. -/
theorem StageEffect.slotFaults (m : StageEffect P s t) : t.inputs.slotFaults = s.inputs.slotFaults := by
  cases m with
  | accepted ops c t hs ha => cases ha <;> rfl
  | afterResetSpi => rw [Machine.afterResetSpi, postReset_eq]; rfl
  | afterResetI2c => rw [Machine.afterResetI2c, postReset_eq]; rfl
  | wait | done | resetHigh | resetHold | resetLow | i2c => rfl

@[simp] theorem settle_slotFaults (P : Params) (s : State) : (settle P s).inputs.slotFaults = s.inputs.slotFaults := by
  simp [settle]

/-- With no failing slot to come, a step from the machine's invariant leaves the target ready if it was (R198). -/
theorem State.Inv.stepWith_clean (h : s.Inv P) (hc : s.Clean) (hf : s.NoSlotFault) (hst : stepWith P s = .next t) :
    t.Clean ∧ t.NoSlotFault := by
  obtain ⟨u, rfl, ⟨i, hi, -, rfl⟩ | ⟨hp, hu⟩⟩ := h.stepWith_cases hst <;>
    obtain ⟨he, -, ⟨-, hps⟩, -⟩ := h
  · have slots : s.SlotsOk 2 := fun b hb => hf b (List.mem_of_mem_take hb)
    rw [sendFrame_of_slotsOk slots fun _ => rfl]
    refine ⟨(hc.afterWindow he hi _).settle, fun b hb => hf b ?_⟩
    rw [settle_slotFaults] at hb
    exact List.mem_of_mem_tail (List.mem_of_mem_tail hb)
  · have m := stageStep_effect hp hu
    refine ⟨State.Clean.settle ?_, fun b hb => hf b ?_⟩
    · rw [sequencerMove_of_inv (m.eng_inv he hp)]
      exact (stageStep_cases hu).clean hc he.1 hps
    · rwa [settle_slotFaults, m.slotFaults] at hb

end Clean

/-- Settles O34: a window whose slots succeed finds its precondition met and sets up the next one's, and the other
moves come with no pointer. -/
theorem withoutFailureNoWindowIsRefused : Obligations.WithoutFailureNoWindowIsRefused := by
  unfold Obligations.WithoutFailureNoWindowIsRefused
  intro s t h hc hf hst
  rw [step_eq_stepWith] at hst
  obtain ⟨hc', hf'⟩ := h.stepWith_clean hc hf hst
  have ⟨hm, _⟩ := hc'
  exact ⟨hc', hf', hm⟩

/-! ### An uninitialised engine (R190, R257) -/

section Uninitialised
variable {P : Params} {s t : State}

/-- Accepting a request emits nothing, unless it chooses a transport (R243). -/
theorem Accepted.trace_of_uninitialised (m : Accepted P s t) (ht : t.eng.transport = .none) : t.trace = s.trace := by
  cases m with
  | initSpi | initI2c => cases ht
  | rejected | i2c | spi => rfl

/-- A stage's move of an idle engine that chooses no transport emits nothing. -/
theorem StageEffect.trace_of_uninitialised (m : StageEffect P s t) (hs : s.eng.stage = .idle)
    (ht : t.eng.transport = .none) : t.trace = s.trace := by
  cases m with
  | wait | done => rfl
  | accepted ops c t _ ha => exact ha.trace_of_uninitialised ht
  | resetHigh k | resetHold k | resetLow k | afterResetSpi k | afterResetI2c k | i2c e r k =>
    exact absurd (hs.symm.trans k) nofun

end Uninitialised

/-- Settles O36: with no transport chosen no frame is sent, and the engine is idle. -/
theorem uninitialisedEngineEmitsNothing : Obligations.UninitialisedEngineEmitsNothing := by
  unfold Obligations.UninitialisedEngineEmitsNothing
  intro s t h hst ht
  rw [step_eq_stepWith] at hst
  have uninitialised : s.eng.transport = .none := by
    by_contra hne
    obtain ⟨htr, -⟩ := stepWith_sameHandle hst hne
    exact hne (htr.symm.trans ht)
  have ⟨⟨_, _, _, _, hrst, _⟩, _⟩ := h
  obtain ⟨-, hs⟩ := hrst uninitialised
  obtain ⟨u, rfl, ⟨i, -, hspi, -⟩ | ⟨hp, hu⟩⟩ := h.stepWith_cases hst
  · exact absurd (hspi.symm.trans uninitialised) nofun
  · obtain ⟨htr, -⟩ := settle_sameHandle Config.params u
    rw [settle_trace]
    exact (stageStep_effect hp hu).trace_of_uninitialised hs (htr.symm.trans ht)

end Sys2Proof.Machine
end

section
/-! PROOFS. 42_composite_operations, continued: the two windows of a register request under SPI (R190 to R194), and the
call of one under I2C (R201). -/

namespace Sys2Proof.Machine

/-! ### A register request's two windows, one at a time (R190 to R194) -/

section Windows
variable {P : Params} {s : State} {a d v : Byte} {q : Request} {op : OpKind} {i : Instr} {r : Response}

/-- The step of the address window: its four events, and the access command is the next to be sent (R194). -/
theorem Access.stepWith_ptr (h : Access s.eng.addr s.eng.data v q op i r) (ho : s.eng.op = op) (hs : s.eng.stage = .ptr)
    (hf : fetch s = some (.setptr a)) (hsl : s.SlotsOk 2) :
    ∃ t, stepWith P s = .next t ∧ t.trace = s.trace ++ windowTrace (.setptr a) 0 ∧ t.eng.stage = .acc ∧
      fetch t = some i := by
  have moved : sequencerMove (s.afterWindow P (.setptr a) 0) = (s.afterWindow P (.setptr a) 0).accessing i :=
    h.sequencerMove_ptr rfl hs ho rfl
  obtain ⟨rf, changes, hst, -⟩ := stepWith_frame_withChip hf (sendFrame_of_slotsOk (i := .setptr a) hsl nofun) moved
  exact ⟨_, hst, rfl, rfl, fetch_of_holds rfl ⟨rfl, rfl, rfl, fun k => if_pos k⟩⟩

/-- The step of a read's access window neither of whose slots fails: the byte captured is the response (R192). -/
theorem stepWith_read (hs : s.eng.stage = .acc) (ho : s.eng.op = .rd) (hf : fetch s = some .rdptr)
    (h0 : slotFailure P s = none) (h1 : slotFailure P (useSlot s) = none) :
    ∃ t v, stepWith P s = .next t ∧ t.trace = s.trace ++ windowTrace .rdptr v ∧ t.eng.rx = v ∧
      t.response = some (.okByte v) ∧ t.responses = s.responses ++ [Response.okByte v] ∧ t.eng.stage = .idle ∧
      t.eng.op = .none := by
  have answered := (Access.read (a := s.eng.addr) (d := s.eng.data)).sequencerMove_acc
    (s := s.afterWindow P .rdptr (replyByte P opRdptr s.tgt)) rfl hs ho fun _ => rfl
  obtain ⟨rf, changes, hst, -⟩ := stepWith_frame_withChip hf (sendFrame_of_complete h0 h1) answered
  exact ⟨_, _, hst, rfl, rfl, rfl, rfl, rfl, rfl⟩

/-- The step of a command's window that a failing slot cuts off: the request is answered with the slot's report
(R131). -/
theorem stepWith_failedWindow {k : Nat} {f : FaultReport} (hf : fetch s = some i)
    (hw : sendFrame P i.frameReq s = s.afterFailedWindow P i k f) :
    ∃ t, stepWith P s = .next t ∧ t.responses = s.responses ++ [Response.err (.transportError f)] := by
  have quiet : sequencerMove (s.afterFailedWindow P i k f) = s.afterFailedWindow P i k f := by
    apply sequencerMove_of_stage <;> simp [State.afterFailedWindow, Engine.afterFail]
  obtain ⟨rf, changes, hst, -⟩ := stepWith_frame_withChip hf hw quiet
  exact ⟨_, hst, rfl⟩

/-- With no change to come the chip is silent (R44). -/
theorem State.NoEnvChange.chipSilent (h : s.NoEnvChange) : s.ChipSilent P := by
  intro c hc rf
  rw [h c hc]
  rfl

/-- At a known parser a request's two windows leave no pointer (R153, R154). -/
theorem Access.windows_no_pointer {T : Target} (h : Access a d v q op i r) (hk : T.known = true) :
    (targetWindow P (lineBytes P i) (targetWindow P [opSetptr, a] T)).ptrValid = false := by
  obtain ⟨hk', hv, -⟩ := window_setptr_points P hk a
  obtain ⟨-, hv', -⟩ := h.window_flags (P := P) hk' hv
  exact hv'

/-- A read's two windows change no register (R152, R153). -/
theorem read_windows_rf (P : Params) (T : Target) :
    (targetWindow P (lineBytes P .rdptr) (targetWindow P [opSetptr, a] T)).rf = T.rf := by
  rw [lineBytes, window_rf _ (by decide), window_rf _ (by decide)]

/-- A read's two windows capture the register it names, where it is implemented and readable (R63, R152, R153). -/
theorem read_windows_replyByte_of_readable {T : Target} (hk : T.known = true) (hi : P.implemented a = true)
    (hr : P.readable a = true) : replyByte P opRdptr (targetWindow P [opSetptr, a] T) = T.rf.read P a := by
  obtain ⟨hk', hv, hp, hrf⟩ := window_setptr_points P hk a
  rw [replyByte_rdptr hk' hv, hp, memRead_of_readable hi hr]
  exact congrArg (RegFile.read P · a) hrf

/-- A write's two windows leave its byte in the register it names, where that is implemented and writable (R64, R152,
R154). -/
theorem write_windows_read_of_writable {T : Target} (hk : T.known = true) (hwf : T.rf.wf P)
    (hi : P.implemented a = true) (hw : P.writable a = true) (d : Byte) :
    (targetWindow P (lineBytes P (.wrptr d)) (targetWindow P [opSetptr, a] T)).rf.read P a = d := by
  obtain ⟨hk', hv, hp, hrf⟩ := window_setptr_points P hk a
  rw [lineBytes, window_wrptr hk' hv, hp, memWrite_read_same (hrf ▸ hwf : (tgtSlot P opWrptr (tgtCsLow _)).rf.wf P)]
  exact storedByte_of_writable hi hw d

/-- A write's two windows change no other register (R64). -/
theorem write_windows_read_other {T : Target} {b : Byte} (hk : T.known = true) (hb : b ≠ a) (d : Byte) :
    (targetWindow P (lineBytes P (.wrptr d)) (targetWindow P [opSetptr, a] T)).rf.read P b = T.rf.read P b := by
  obtain ⟨-, -, hp, hrf⟩ := window_setptr_points P hk a
  rw [lineBytes, window_read_other P _ _ (hp.symm ▸ hb), hrf]

end Windows

/-- Settles O40: the sequencer loads the access frame of the request's kind. -/
theorem pointerSetImmediatelyPrecedesTheAccess : Obligations.PointerSetImmediatelyPrecedesTheAccess := by
  unfold Obligations.PointerSetImmediatelyPrecedesTheAccess
  intro s a h hs hf hsl
  obtain ⟨⟨hst, -⟩, -⟩ := h
  have kind : s.eng.op = .rd ∨ s.eng.op = .wr := by simp_all [Engine.StageOk]
  rw [step_eq_stepWith]
  rcases kind with ho | ho
  · obtain ⟨t, hstep, htr, hacc, hnext⟩ := (Access.read (v := 0)).stepWith_ptr ho hs hf hsl
    exact ⟨t, hstep, htr, hacc, .inl ⟨ho, hnext⟩⟩
  · obtain ⟨t, hstep, htr, hacc, hnext⟩ := (Access.write (v := 0)).stepWith_ptr ho hs hf hsl
    exact ⟨t, hstep, htr, hacc, .inr ⟨ho, hnext⟩⟩

/-- Settles O41: a complete access frame delivers its reply byte to the capture register, which the sequencer answers
with; a failing slot has answered with its report. -/
theorem readResponseIsTheCapturedByte : Obligations.ReadResponseIsTheCapturedByte := by
  unfold Obligations.ReadResponseIsTheCapturedByte
  intro s hs ho hf
  rw [step_eq_stepWith]
  refine ⟨fun hsl => ?_, ?_⟩
  · obtain ⟨h0, h1⟩ := hsl.not_fails Config.params
    exact stepWith_read hs ho hf h0 h1
  rcases slots_cases Config.params s with ⟨r, h⟩ | ⟨h0, r, h1⟩ | ⟨h0, h1⟩
  · obtain ⟨t, hstep, hr⟩ := stepWith_failedWindow hf (sendFrame_of_fail0 h)
    exact ⟨t, hstep, .inl ⟨r, .inl h, hr⟩⟩
  · obtain ⟨t, hstep, hr⟩ := stepWith_failedWindow hf (sendFrame_of_fail1 h0 h1)
    exact ⟨t, hstep, .inl ⟨r, .inr ⟨h0, h1⟩, hr⟩⟩
  · obtain ⟨t, v, hstep, htr, -, -, hr, -⟩ := stepWith_read hs ho hf h0 h1
    exact ⟨t, hstep, .inr ⟨v, htr, hr⟩⟩

/-- Settles O42: the run of a register request, with what a read's two windows do to the target. -/
theorem spiReadCompletes : Obligations.SpiReadCompletes := by
  unfold Obligations.SpiReadCompletes
  intro P s a rest hr hc ho hsl hch
  have ⟨_, _, _, _, _, hk, _⟩ := hr
  have access := Access.read (a := a) (d := s.eng.data) (v := replyByte P opRdptr (targetWindow P [opSetptr, a] s.tgt))
  exact ⟨_, _, runWith_served access hr hc ho hch.chipSilent hsl (fun _ => rfl) fun _ => rfl,
    fun hi hre => read_windows_replyByte_of_readable hk hi hre, rfl, read_windows_rf P s.tgt,
    access.windows_no_pointer hk, access.served_spiReady hr, rfl⟩

/-- Settles O43: the run of a register request, with what a write's two windows do to the target. -/
theorem spiWriteCompletes : Obligations.SpiWriteCompletes := by
  unfold Obligations.SpiWriteCompletes
  intro P s a d rest hr hc ho hsl hch hwf
  have ⟨_, _, _, _, _, hk, _⟩ := hr
  have access := Access.write (a := a) (d := d) (v := 0)
  exact ⟨_, runWith_served access hr hc ho hch.chipSilent hsl nofun nofun,
    fun hi hw => write_windows_read_of_writable hk hwf hi hw d, fun b hb => write_windows_read_other hk hb d, rfl,
    access.windows_no_pointer hk, access.served_spiReady hr, rfl⟩

/-! ### A register request under I2C (R201) -/

section I2c
variable {P : Params} {s : State} {r : FaultReport}

/-- The sequencer waits when a request is answered. -/
theorem sequencerMove_finish (s : State) (r : Response) : sequencerMove (s.finish r) = s.finish r := by
  apply sequencerMove_of_stage <;> simp

theorem stageStep_i2cRead (hs : s.eng.stage = .i2c) (ho : s.eng.op = .rd) :
    stageStep P s = .next (i2cReadStep P s) := by
  simp only [stageStep, hs, ho]

theorem stageStep_i2cWrite (hs : s.eng.stage = .i2c) (ho : s.eng.op = .wr) :
    stageStep P s = .next (i2cWriteStep s) := by
  simp only [stageStep, hs, ho]

/-- A read's call succeeds (R201). -/
theorem i2cReadStep_of_ok (h : i2cFailure s = none) :
    i2cReadStep P s =
      ((useI2c s).emit (.i2cRead s.eng.i2cAddress s.eng.addr (P.i2cByte s.i2cCalls))).finish
        (.okByte (P.i2cByte s.i2cCalls)) := by
  simp only [i2cReadStep, h]

/-- A write's call succeeds (R201). -/
theorem i2cWriteStep_of_ok (h : i2cFailure s = none) :
    i2cWriteStep s = ((useI2c s).emit (.i2cWrite s.eng.i2cAddress s.eng.addr s.eng.data)).finish .ok := by
  simp only [i2cWriteStep, h]

/-- The call of either kind fails (R201). -/
theorem i2cStep_of_failure (hp : s.eng.phase = .idle) (h : i2cFailure s = some r) :
    i2cReadStep P s =
        ((useI2c s).emit (.i2cFail s.eng.i2cAddress s.eng.addr)).finish (.err (.transportError r)) ∧
      i2cWriteStep s =
        ((useI2c s).emit (.i2cFail s.eng.i2cAddress s.eng.addr)).finish (.err (.transportError r)) := by
  simp only [i2cReadStep, i2cWriteStep, h, i2cFailed_eq_finish hp, and_self]

/-- A step that is one I2C call and the response to it: one event, the engine is idle, and of the target at most the
register file has changed, by the chip (R44, R201). -/
theorem stepWith_i2cCall {e : Event} {r : Response} {u : State} (hp : s.eng.phase = .idle)
    (h : stageStep P s = .next u) (hu : u = ((useI2c s).emit e).finish r) :
    ∃ t, stepWith P s = .next t ∧ t.trace = s.trace ++ [e] ∧ t.responses = s.responses ++ [r] ∧
      t.eng.stage = .idle ∧ t.eng.op = .none ∧ { t.tgt with rf := s.tgt.rf } = s.tgt := by
  obtain ⟨rf, changes, hst, -⟩ := stepWith_stage_withChip hp (hu ▸ h) (sequencerMove_finish _ r)
  exact ⟨_, hst, rfl, rfl, rfl, rfl, rfl⟩

end I2c

/-- Settles O45: the three ends of the delegate's call. -/
theorem i2cRequestIsOneCall : Obligations.I2cRequestIsOneCall := by
  unfold Obligations.I2cRequestIsOneCall
  intro s hs hp
  rw [step_eq_stepWith]
  refine ⟨fun ho hf => ?_, fun ho hf => ?_, fun r ho hf => ?_⟩
  · obtain ⟨t, h⟩ := stepWith_i2cCall hp (stageStep_i2cRead hs ho) (i2cReadStep_of_ok hf)
    exact ⟨t, _, h⟩
  · exact stepWith_i2cCall hp (stageStep_i2cWrite hs ho) (i2cWriteStep_of_ok hf)
  · obtain ⟨read, write⟩ := i2cStep_of_failure (P := Config.params) hp hf
    rcases ho with ho | ho
    · exact stepWith_i2cCall hp (stageStep_i2cRead hs ho) read
    · exact stepWith_i2cCall hp (stageStep_i2cWrite hs ho) write

end Sys2Proof.Machine
end

section
/-! PROOFS. 42_composite_operations, continued: the two initialisations, from acceptance to response (R195, R196,
70 R282 to R289), and the default configuration after them (R205). -/

namespace Sys2Proof.Machine

/-! ### The hardware reset pulse (R284 to R287) -/

/-- The hardware reset pulse has been given: the target is reset, and the reset pin is low again. -/
def State.pulsed (P : Params) (s : State) : State :=
  { s with
    eng := { s.eng with rst := .low, stage := .rstLow }, tgt := tgtHardReset P s.tgt,
    trace := s.trace ++ pulseTrace P.resetPulseMs }

/-- After the pulse of `initSPI` and the optional wait the interface-reset frame is loaded (R196, R289). -/
def State.resettingInterface (P : Params) (s : State) : State :=
  loadFrame Instr.rstif.frameReq
    ({ s with trace := s.trace ++ postResetTrace P }.onEngine fun E => { E with stage := .rstif })

/-- The hardware reset puts every register at its reset contents (R47, R287). -/
theorem tgtHardReset_read (P : Params) (T : Target) (a : Byte) : (tgtHardReset P T).rf.read P a = P.rfReset a := rfl

section Initialise
variable {P : Params} {s : State} {q : Request} {rest : List ClientOp}

/-- With the reset pin high the chip has no turn, and the sequencer waits (R287). -/
theorem settle_of_rst_high (hr : s.eng.rst = .high) (hs : s.eng.stage = .rstHigh ∨ s.eng.stage = .rstHold) :
    settle P s = s := by
  have quiet : sequencerMove s = s := by apply sequencerMove_of_stage <;> rcases hs with hs | hs <;> simp [hs]
  rw [settle, quiet, envTurn_eq_self (.inr hr)]

/-- The three steps of the pulse (R284 to R286). The chip has a turn after the third only, in which the registers
outside `ENV_WRITES` keep their reset contents (R44). -/
theorem runWith_pulse (hs : s.eng.stage = .pins) (hp : s.eng.phase = .idle) :
    ∃ rf changes, runWith P 3 s = .next ((s.pulsed P).withChip rf changes) ∧
      ∀ a, P.envWrites a = false → rf.read P a = P.rfReset a := by
  have high : stepWith P s = .next (resetHigh P s) := by
    rw [stepWith_of_stage (t := resetHigh P s) hp (by simp only [stageStep, hs]), settle_of_rst_high rfl (.inl rfl)]
  have hold : stepWith P (resetHigh P s) = .next (resetHold P (resetHigh P s)) := by
    rw [stepWith_of_stage (s := resetHigh P s) hp rfl, settle_of_rst_high rfl (.inr rfl)]
  have quiet : sequencerMove (resetLow (resetHold P (resetHigh P s))) = s.pulsed P := by
    rw [sequencerMove_of_stage (by simp [resetLow]) (by simp [resetLow]) (by simp [resetLow])]
    simp [resetLow, resetHold, resetHigh, State.pulsed, State.emit, State.onEngine, State.onTarget, pulseTrace]
  obtain ⟨rf, changes, low, hr⟩ := stepWith_stage_withChip (P := P) (s := resetHold P (resetHigh P s)) hp rfl quiet
  exact ⟨rf, changes, by rw [runWith_one high, runWith_one hold, runWith_one low]; rfl,
    fun a ha => (hr a ha).trans (tgtHardReset_read P s.tgt a)⟩

/-! ### The initialisations (R195, R196) -/

/-- A request asked for is handed over and accepted in one step (R190, R204). -/
theorem stageStep_request (hs : s.eng.stage = .idle) (hc : s.client = .idle)
    (ho : s.inputs.ops = .request q :: rest) (hq : q.pinsOk = true) :
    stageStep P s = .next (accept P q (s.asking rest)) := by
  simp [stageStep, requesterStep, clientStart, clientMove, State.asking, hs, hc, ho, hq]

theorem accept_initSpi (ht : s.eng.transport = .none) (cs rst : PinId) :
    accept P (.initSpi cs rst) s = setupSpi P cs rst s.takeResponse := by
  simp only [accept, acceptInitSpi, State.takeResponse_eng, ht]

theorem accept_initI2c (ht : s.eng.transport = .none) (adr : I2cAddr) (rst : PinId) :
    accept P (.initI2c adr rst) s = setupI2c adr rst s.takeResponse := by
  simp only [accept, acceptInitI2c, State.takeResponse_eng, ht]

/-- An initialisation, from its acceptance through the pin set-up and the pulse: four steps (R190, R283 to R287). -/
theorem runWith_accepted_pulse {u : State} (hp : s.eng.phase = .idle) (h : stageStep P s = .next u)
    (hu : u.eng.stage = .pins) (hpu : u.eng.phase = .idle) :
    ∃ rf₀ changes₀ rf changes,
      runWith P 4 s = .next (((u.withChip rf₀ changes₀).pulsed P).withChip rf changes) ∧
        ∀ a, P.envWrites a = false → rf.read P a = P.rfReset a := by
  have quiet : sequencerMove u = u := by apply sequencerMove_of_stage <;> simp [hu]
  obtain ⟨rf₀, changes₀, accepted, -⟩ := stepWith_stage_withChip hp h quiet
  obtain ⟨rf, changes, pulse, hr⟩ := runWith_pulse (P := P) (s := u.withChip rf₀ changes₀) hu hpu
  exact ⟨rf₀, changes₀, rf, changes, (runWith_one accepted).trans pulse, hr⟩

/-- After the pulse of `initSPI` the interface-reset frame is loaded and sent: the engine is ready for register
requests, and the initialisation answered (R49, R196, R289). -/
theorem runWith_afterPulse_spi (ht : s.eng.transport = .spi) (hrst : s.eng.rst = .low) (hs : s.eng.stage = .rstLow)
    (ho : s.eng.op = .initSpi) (hp : s.eng.phase = .idle) (hsl : s.SlotsOk 2) :
    ∃ t, runWith P 2 s = .next t ∧ t.SpiReady ∧
      t.eng = { s.eng.afterF2 opRstif opRstif with op := .none, stage := .idle } ∧ t.tgt.ptrValid = false ∧
      (∀ a, P.envWrites a = false → t.tgt.rf.read P a = s.tgt.rf.read P a) ∧
      t.responses = s.responses ++ [Response.ok] ∧ t.trace = s.trace ++ (postResetTrace P ++ windowTrace .rstif 0) := by
  have loading : stageStep P s = .next (s.resettingInterface P) := by
    simp only [stageStep, hs, ho, afterResetSpi, postReset_eq]
    rfl
  obtain ⟨rf₀, changes₀, loaded, hr₀⟩ := stepWith_stage_withChip hp loading (sequencerMove_of_phase nofun)
  obtain ⟨rf, changes, sent, hr⟩ := stepWith_frame_withChip (P := P) (i := .rstif)
    (s := (s.resettingInterface P).withChip rf₀ changes₀) (fetch_of_holds rfl ⟨rfl, rfl, rfl, fun _ => rfl⟩)
    (sendFrame_of_slotsOk (v := 0) hsl nofun) (sequencerMove_rstif rfl rfl ho)
  refine ⟨_, (runWith_one loaded).trans (runWith_one sent), ⟨ht, rfl, rfl, rfl, hrst, ?_, ?_⟩, rfl, ?_, fun a ha => ?_,
    rfl, List.append_assoc _ _ _⟩
  · simp only [State.withChip, State.finish_tgt, State.afterWindow, lineBytes, window_rstif]
  · exact tgtCsHigh_idle P _
  · simp only [State.withChip, State.finish_tgt, State.afterWindow, lineBytes, window_rstif]
  · refine (hr a ha).trans (Eq.trans ?_ (hr₀ a ha))
    simp only [State.afterWindow, lineBytes, window_rstif, State.withChip]

/-- After the pulse of `initI2C` the initialisation is answered (R195). -/
theorem stepWith_afterPulse_i2c (hs : s.eng.stage = .rstLow) (ho : s.eng.op = .initI2c) (hp : s.eng.phase = .idle) :
    ∃ rf changes, stepWith P s = .next ((afterResetI2c P s).withChip rf changes) ∧
      ∀ a, P.envWrites a = false → rf.read P a = s.tgt.rf.read P a := by
  have answering : stageStep P s = .next (afterResetI2c P s) := by simp only [stageStep, hs, ho]
  obtain ⟨rf, changes, hst, hr⟩ := stepWith_stage_withChip hp answering (sequencerMove_finish _ _)
  refine ⟨rf, changes, hst, fun a ha => ?_⟩
  rw [hr a ha, afterResetI2c, State.finish_tgt, postReset_tgt]

end Initialise

/-- Settles O47: the acceptance with the pulse, and the interface reset after it. -/
theorem initSpiCompletes : Obligations.InitSpiCompletes := by
  unfold Obligations.InitSpiCompletes
  intro P s cs rst rest ht hs hp _ hc ho hne hsl
  have accepted : stageStep P s = .next (setupSpi P cs rst (s.asking rest).takeResponse) := by
    rw [stageStep_request hs hc ho (bne_iff_ne.mpr hne), accept_initSpi (s := s.asking rest) ht]
  obtain ⟨rf₀, changes₀, rf, changes, pulse, hr⟩ := runWith_accepted_pulse hp accepted rfl hp
  obtain ⟨t, reset, ready, he, hv, hr', hresp, htr⟩ := runWith_afterPulse_spi (P := P)
    (s := (((setupSpi P cs rst (s.asking rest).takeResponse).withChip rf₀ changes₀).pulsed P).withChip rf changes)
    rfl rfl rfl rfl hp hsl
  refine ⟨t, P.resetPulseMs, (runWith_add 4 2 pulse).trans reset, Nat.le_add_right 10 _, ready, ?_, ?_, ?_, ?_, hv,
    fun a ha => (hr' a ha).trans (hr a ha), hresp, ?_⟩
  · rw [he]; rfl
  · rw [he]; rfl
  · rw [he]
  · rw [he]; rfl
  · simp [htr, State.withChip, State.pulsed, setupSpi, pinOutput, driveCsHigh, State.asking, spiPinTrace]

/-- Settles O48: the acceptance with the pulse, and the response. -/
theorem initI2cCompletes : Obligations.InitI2cCompletes := by
  unfold Obligations.InitI2cCompletes
  intro P s adr rst rest ht hs hp hc ho
  have accepted : stageStep P s = .next (setupI2c adr rst (s.asking rest).takeResponse) := by
    rw [stageStep_request hs hc ho rfl, accept_initI2c (s := s.asking rest) ht]
  obtain ⟨rf₀, changes₀, rf, changes, pulse, hr⟩ := runWith_accepted_pulse hp accepted rfl hp
  obtain ⟨_, _, answer, hr'⟩ := stepWith_afterPulse_i2c (P := P)
    (s := (((setupI2c adr rst (s.asking rest).takeResponse).withChip rf₀ changes₀).pulsed P).withChip rf changes)
    rfl rfl hp
  rw [afterResetI2c, postReset_eq] at answer
  refine ⟨_, P.resetPulseMs, (runWith_add 4 1 pulse).trans (runWith_one answer), Nat.le_add_right 10 _, rfl, rfl, rfl,
    rfl, rfl, rfl, rfl, rfl, rfl, fun a ha => (hr' a ha).trans (hr a ha), rfl, ?_⟩
  simp [State.withChip, State.pulsed, setupI2c, pinOutput, State.asking]

/-! ### The default configuration (R205) -/

section Configure
variable {P : Params} {s : State} {a v : Byte} {rest : List (Byte × Byte)} {r : Response}

/-- On a response the client layer goes on with its operation (R204, R251). -/
theorem stageStep_onResponse (hs : s.eng.stage = .idle) (hc : s.client ≠ .idle) (hr : s.response = some r) :
    stageStep P s = clientMove P (clientContinue P s.client r) s := by
  simp only [stageStep, hs]
  unfold requesterStep
  split
  next hi _ => exact absurd hi hc
  next hi _ => exact absurd hi hc
  next hr' _ _ =>
    cases hr.symm.trans hr'
    rfl
  next hn _ _ => exact absurd (hr.symm.trans hn) nofun

/-- With a configuration write left and the last response OK, the write is requested (R205). -/
theorem stageStep_nextWrite (hs : s.eng.stage = .idle) (hc : s.client = .configure ((a, v) :: rest))
    (hr : s.response = some .ok) :
    stageStep P s = .next (accept P (.writeRegister a v) { s with client := .configure rest }) := by
  rw [stageStep_onResponse hs (by simp [hc]) hr, hc]
  rfl

/-- With no configuration write left and the last response OK, the operation is over (R205). -/
theorem stageStep_configured (hs : s.eng.stage = .idle) (hc : s.client = .configure []) (hr : s.response = some .ok) :
    stageStep P s = .next (s.resultTaken .ok) := by
  rw [stageStep_onResponse hs (by simp [hc]) hr, hc]
  rfl

/-- A write request is accepted under I2C: it is latched, and the delegate's call is next (R190, R200). -/
theorem accept_write_i2c (ht : s.eng.transport = .i2c) (a d : Byte) :
    accept P (.writeRegister a d) s =
      s.takeResponse.onEngine fun E => { E with op := .wr, addr := a, data := d, stage := .i2c } := by
  simp only [accept, acceptRegister, dispatchTransport, State.takeResponse_eng, State.onEngine_eng, ht]
  rfl

end Configure

/-- Settles O56: the requester's move on an OK, with the acceptance of a write under each transport. -/
theorem defaultConfigurationFollowsInitialisation : Obligations.DefaultConfigurationFollowsInitialisation := by
  unfold Obligations.DefaultConfigurationFollowsInitialisation
  simp only [step_eq_stepWith]
  refine ⟨fun P cs rst adr => ⟨rfl, rfl⟩, fun s a v rest hrd hc hr => ?_, fun s a v rest ht hs hp hc hr => ?_,
    fun s hs hp hc hr => ?_⟩
  · obtain ⟨ht, hs, hp, -⟩ := hrd
    have requested := stageStep_nextWrite (P := Config.params) hs hc hr
    rw [(Access.write (v := 0)).accept_eq (s := { s with client := .configure rest }) ht nofun] at requested
    obtain ⟨rf, changes, hst, -⟩ := stepWith_stage_withChip hp requested
      (sequencerMove_of_phase (by simp [State.addressing]))
    exact ⟨_, hst, fetch_of_holds rfl ⟨rfl, rfl, rfl, fun _ => rfl⟩, rfl, rfl, rfl, rfl, rfl⟩
  · have requested := stageStep_nextWrite (P := Config.params) hs hc hr
    rw [accept_write_i2c (s := { s with client := .configure rest }) ht] at requested
    obtain ⟨rf, changes, hst, -⟩ := stepWith_stage_withChip hp requested
      (sequencerMove_of_stage (by simp) (by simp) (by simp))
    exact ⟨_, hst, rfl, rfl, rfl, rfl, rfl, rfl⟩
  · have quiet : sequencerMove (s.resultTaken .ok) = s.resultTaken .ok := by
      apply sequencerMove_of_stage <;> simp [State.resultTaken, hs]
    obtain ⟨rf, changes, hst, -⟩ := stepWith_stage_withChip hp (stageStep_configured hs hc hr) quiet
    exact ⟨_, hst, rfl, rfl, rfl, rfl⟩

end Sys2Proof.Machine
end

section
/-! PROOFS. 43_register_semantics_client: the client layer's argument checks (R227 to R229), the clearing of the
interrupt flag (R222), the write that has no meaning (R230), and operations run under SPI to their result: one register
request (R226, R227), and the read of the sensor inputs (R221). -/

namespace Sys2Proof.Machine

/-! ### The interrupt flag (R222) -/

/-- Of the cleared byte every bit but bit 0 is the old one. -/
theorem getLsbD_clearInterruptFlag (m : Byte) {k : Nat} (hk : k < 8) :
    (clearInterruptFlag m).getLsbD k = (m.getLsbD k && !decide (k = 0)) := by
  have mask : ∀ k < 8, (0xFE : Byte).getLsbD k = !decide (k = 0) := by decide
  rw [clearInterruptFlag, BitVec.getLsbD_and, mask k hk]

/-- A byte with bit 0 clear is left as it is (R222). -/
theorem clearInterruptFlag_of_even {m : Byte} (h : m.getLsbD 0 = false) : clearInterruptFlag m = m := by
  refine BitVec.eq_of_getLsbD_eq fun k hk => ?_
  rw [getLsbD_clearInterruptFlag m hk]
  cases k with
  | zero => simp only [h, Bool.false_and]
  | succ k => simp

/-- A byte with bit 0 set is its cleared byte and 1 (R222). -/
theorem clearInterruptFlag_add_one {m : Byte} (h : m.getLsbD 0 = true) : clearInterruptFlag m + 1 = m := by
  have one (k : Nat) : (1 : Byte).getLsbD k = decide (k = 0) := by simp
  have disjoint : clearInterruptFlag m &&& 1 = 0 := by
    refine BitVec.eq_of_getLsbD_eq fun k hk => ?_
    rw [BitVec.getLsbD_and, getLsbD_clearInterruptFlag m hk, one]
    cases k <;> simp
  rw [BitVec.add_eq_or_of_and_eq_zero _ _ disjoint]
  refine BitVec.eq_of_getLsbD_eq fun k hk => ?_
  rw [BitVec.getLsbD_or, getLsbD_clearInterruptFlag m hk, one]
  cases k with
  | zero => simp only [h, decide_true, Bool.or_true]
  | succ k => simp

/-- Settles O49: by the bits of the cleared byte; an odd byte is the cleared one and 1. -/
theorem interruptClearClearsBitZeroOnly : Obligations.InterruptClearClearsBitZeroOnly := by
  unfold Obligations.InterruptClearClearsBitZeroOnly
  refine fun m => ⟨?_, fun k h1 h8 => ?_, clearInterruptFlag_of_even, fun h => ?_⟩
  · rw [getLsbD_clearInterruptFlag m (by decide), decide_eq_true rfl, Bool.not_true, Bool.and_false]
  · rw [getLsbD_clearInterruptFlag m h8, decide_eq_false (Nat.ne_of_gt h1), Bool.not_false, Bool.and_true]
  · exact eq_sub_of_add_eq (clearInterruptFlag_add_one h)

/-! ### The argument checks (R227 to R229) -/

theorem channelOk_iff {c : Nat} : channelOk c = true ↔ 1 ≤ c ∧ c ≤ 8 := by
  simp [channelOk]

theorem touchCountOk_iff {n : Nat} : touchCountOk n = true ↔ 1 ≤ n ∧ n ≤ 4 := by
  simp [touchCountOk]

/-- Settles O51: the checks are the ranges. -/
theorem channelAndTouchOperationsCheckTheirArgument : Obligations.ChannelAndTouchOperationsCheckTheirArgument := by
  unfold Obligations.ChannelAndTouchOperationsCheckTheirArgument
  intro P c n v
  simp only [clientStart, channelOk_iff, touchCountOk_iff, and_self]

/-- An operation whose argument check fails is over at once (R229). -/
theorem clientStart_of_invalid (P : Params) {op : ClientOp} (h : op.argsOk = false) :
    clientStart P op = .done (.err .invalidArgument) := by
  cases op with
  | setMultipleTouchConfiguration enable n => cases enable <;> simp_all [ClientOp.argsOk, clientStart]
  | setSensorInputThreshold | getSensorInputThreshold => simp_all [ClientOp.argsOk, clientStart]
  | _ => cases h

/-! ### The first and the last step of an operation (R204, R226) -/

/-- The operations in `rest` are still to do. -/
def State.withOps (rest : List ClientOp) (s : State) : State := { s with inputs := { s.inputs with ops := rest } }

section Operation
variable {P : Params} {s : State} {op : ClientOp} {rest : List ClientOp} {r r' : Response}

/-- With no frame in progress the step is the stage's (R128). -/
theorem stepWith_of_phase_idle (hp : s.eng.phase = .idle) : stepWith P s = settleOutcome P (stageStep P s) := by
  simp only [stepWith, fetch, eventStep, eventCore, hp]

/-- With everything idle the client layer begins the operation asked for (R207, R226). -/
theorem stageStep_begin (hs : s.eng.stage = .idle) (hc : s.client = .idle) (ho : s.inputs.ops = op :: rest) :
    stageStep P s = clientMove P (clientStart P op) (s.withOps rest) := by
  simp only [stageStep, hs, requesterStep, hc, ho]
  rfl

/-- The end of an operation leaves the sequencer nothing to do (R194). -/
theorem sequencerMove_resultTaken (hs : s.eng.stage = .idle) (r : Response) :
    sequencerMove (s.resultTaken r) = s.resultTaken r := by
  apply sequencerMove_of_stage <;> simp [State.resultTaken, hs]

/-- The step in which the response of an idle engine ends the operation (R204). -/
theorem stepWith_operationEnds (hr : s.SpiReady) (hc : s.client ≠ .idle) (hresp : s.response = some r)
    (hd : clientContinue P s.client r = .done r') (hch : s.ChipSilent P) :
    stepWith P s = .next (nextMoment (s.resultTaken r')) := by
  obtain ⟨-, hs, hp, hcs, hrst, -⟩ := hr
  have stage : stageStep P s = .next (s.resultTaken r') := by
    rw [stageStep_onResponse hs hc hresp, hd]
    rfl
  have hch' : (s.resultTaken r').ChipSilent P := hch
  rw [stepWith_of_stage hp stage, hch'.settle_eq (by simp [State.resultTaken, hcs]) (by simp [State.resultTaken, hrst]),
    sequencerMove_resultTaken hs]

end Operation

/-- Settles O50: the operation is over before any request. -/
theorem invalidArgumentReachesNoHardware : Obligations.InvalidArgumentReachesNoHardware := by
  unfold Obligations.InvalidArgumentReachesNoHardware
  intro s op rest hs hp hc ho hbad
  have ended : stageStep Config.params s = .next ((s.withOps rest).resultTaken (.err .invalidArgument)) := by
    rw [stageStep_begin hs hc ho, clientStart_of_invalid _ hbad]
    rfl
  have quiet := sequencerMove_resultTaken (s := s.withOps rest) hs (.err .invalidArgument)
  obtain ⟨rf, changes, hst, -⟩ := stepWith_stage_withChip hp ended quiet
  exact ⟨_, (step_eq_stepWith s).trans hst, rfl, rfl, rfl, rfl, rfl⟩

/-- Settles O57: the client layer has no move. -/
theorem writeAllThresholdsIsRefused : Obligations.WriteAllThresholdsIsRefused := by
  unfold Obligations.WriteAllThresholdsIsRefused
  intro s rest hs hp hc ho
  rw [step_eq_stepWith, stepWith_of_phase_idle hp, stageStep_begin hs hc ho]
  rfl

/-! ### One register request of an operation, under SPI (R190 to R194) -/

/-- The requester waits for a response as the task `k`. -/
def State.withClient (k : ClientTask) (s : State) : State := { s with client := k }

/-- A register request's address window has been sent (R191, R193). -/
def State.addressed (P : Params) (op : OpKind) (a d : Byte) (s : State) : State :=
  (s.addressing op a d).afterWindow P (.setptr a) 0

section Request
variable {P : Params} {s : State} {a d v : Byte} {rest : List ClientOp} {q : Request} {op : OpKind} {i : Instr}
  {r : Response} {k : ClientTask}

/-- The step in which a register request that an operation makes is accepted under SPI, whatever the task the client
layer then waits as (R190). -/
theorem stepWith_asked (h : Access a d v q op i r) (hr : s.SpiReady)
    (hm : stageStep P s = clientMove P (.ask q k) (s.withOps rest)) (hch : s.ChipSilent P)
    (hd : op = .rd → d = s.eng.data) :
    stepWith P s = .next (nextMoment (((s.withOps rest).withClient k).addressing op a d)) := by
  obtain ⟨ht, -, hp, hhigh, hlow, -⟩ := hr
  have hcs : s.eng.cs ≠ .low := by simp [hhigh]
  have hrst : s.eng.rst ≠ .high := by simp [hlow]
  have accepted : stageStep P s = .next (((s.withOps rest).withClient k).addressing op a d) := by
    rw [hm, ← h.accept_eq (P := P) (s := (s.withOps rest).withClient k) ht hd]
    exact if_pos h.pinsOk
  have hch' : (((s.withOps rest).withClient k).addressing op a d).ChipSilent P := hch
  have sending : (((s.withOps rest).withClient k).addressing op a d).eng.phase ≠ .idle := nofun
  rw [stepWith_of_stage hp accepted, hch'.settle_eq hcs hrst, sequencerMove_of_phase sending]

/-- The step of the address window, the chip being silent: the access frame is next (R194). -/
theorem Access.stepWith_addressWindow (h : Access a d v q op i r) (hrst : s.eng.rst ≠ .high) (hch : s.ChipSilent P)
    (hsl : s.SlotsOk 2) :
    stepWith P (s.addressing op a d) = .next (nextMoment ((s.addressed P op a d).accessing i)) := by
  have loaded : fetch (s.addressing op a d) = some (.setptr a) := fetch_of_holds rfl ⟨rfl, rfl, rfl, fun _ => rfl⟩
  rw [stepWith_window loaded hsl hch hrst nofun, h.sequencerMove_ptr rfl rfl rfl rfl, State.addressed]

/-- The step of the access window, the chip being silent: the request is answered (R194). -/
theorem Access.stepWith_accessWindow (h : Access a d v q op i r) (ho : s.eng.op = op) (hrst : s.eng.rst ≠ .high)
    (hch : s.ChipSilent P) (hsl : s.SlotsOk 2) (hv : op = .rd → v = replyByte P opRdptr s.tgt) :
    stepWith P (s.accessing i) = .next (nextMoment (((s.accessing i).afterWindow P i v).finish r)) := by
  have loaded : fetch (s.accessing i) = some i := fetch_of_holds rfl ⟨rfl, rfl, rfl, fun two => if_pos two⟩
  rw [stepWith_window loaded hsl hch hrst fun hi => hv (h.op_of_rdptr hi),
    h.sequencerMove_acc (Engine.afterFrame_phase _ _ _) (Engine.afterFrame_stage _ _ _)
      ((Engine.afterFrame_op (s.accessing i).eng v i).trans ho) fun hop => h.afterFrame_rx hop _]

/-- A register request that an operation makes, from its acceptance to its response: three steps (R191, R193). -/
theorem runWith_asked (h : Access a d v q op i r) (hr : s.SpiReady)
    (hm : stageStep P s = clientMove P (.ask q k) (s.withOps rest)) (hch : s.ChipSilent P) (hsl : s.SlotsOk 4)
    (hd : op = .rd → d = s.eng.data)
    (hv : op = .rd → v = replyByte P opRdptr (targetWindow P [opSetptr, a] s.tgt)) :
    runWith P 3 s = .next ((s.served P rest a d v i r).withClient k) := by
  have first := stepWith_asked h hr hm hch hd
  obtain ⟨-, -, -, -, hlow, -⟩ := hr
  have hrst : s.eng.rst ≠ .high := by simp [hlow]
  have second := h.stepWith_addressWindow (s := nextMoment ((s.withOps rest).withClient k)) hrst hch.next
    (hsl.mono (by decide : 2 ≤ 4))
  have third := h.stepWith_accessWindow
    (s := nextMoment ((nextMoment ((s.withOps rest).withClient k)).addressed P op a d)) rfl hrst hch.next.next
    (hsl.of_tail_tail (n := 2) rfl) hv
  refine (runWith_one first).trans ((runWith_one second).trans ((runWith_one third).trans ?_))
  cases h <;> simp [runWith, State.served, State.withClient, State.withOps, nextMoment, State.accessing,
    State.addressed, State.addressing, State.afterWindow, State.takeResponse, State.finish, State.respond,
    State.onEngine, loadFrame, Engine.afterFrame, Engine.afterF2, Engine.afterF1r, lineBytes, Instr.frameReq]

/-- A register request whose response ends the operation that makes it, from its acceptance to the operation's result:
four steps (R191, R193, R204). -/
theorem runWith_lastAsked {r' : Response} (h : Access a d v q op i r) (hr : s.SpiReady)
    (hm : stageStep P s = clientMove P (.ask q k) (s.withOps rest)) (hch : s.ChipSilent P) (hsl : s.SlotsOk 4)
    (hd : op = .rd → d = s.eng.data)
    (hv : op = .rd → v = replyByte P opRdptr (targetWindow P [opSetptr, a] s.tgt))
    (hk : k ≠ .idle) (hend : clientContinue P k r = .done r') :
    runWith P 4 s = .next (nextMoment ((s.served P rest a d v i r).resultTaken r')) := by
  have ready : ((s.served P rest a d v i r).withClient k).SpiReady := h.served_spiReady (rest := rest) hr
  have silent : ((s.served P rest a d v i r).withClient k).ChipSilent P := hch.next.next.next
  rw [runWith_add 3 1 (runWith_asked h hr hm hch hsl hd hv)]
  exact runWith_one (stepWith_operationEnds ready hk rfl hend silent)

end Request

/-! ### Operations of one request (R226, R227) -/

/-- If no slot to come fails, the next ones do not (R131). -/
theorem State.NoSlotFault.slotsOk {s : State} (h : s.NoSlotFault) (n : Nat) : s.SlotsOk n :=
  fun b hb => h b (List.mem_of_mem_take hb)

section Reference
variable {P : Params} {s : State} {a v : Byte} {c : Nat} {rest : List ClientOp} {k : ClientTask}

/-- In the reference target a read whose byte is the operation's result (R191, R226, D17). -/
theorem runWith_lastAskedRead (hP : P.ReferenceTarget) (hr : s.SpiReady)
    (hm : stageStep P s = clientMove P (.ask (.readRegister a) k) (s.withOps rest)) (hsl : s.SlotsOk 4)
    (hv : s.tgt.rf.read P a = v) (hk : k ≠ .idle) (hend : clientContinue P k (.okByte v) = .done (.okByte v)) :
    runWith P 4 s = .next (s.completed P rest a s.eng.data v .rdptr (.okByte v)) := by
  have ⟨_, _, _, _, _, hkn, _⟩ := hr
  exact runWith_lastAsked .read hr hm (chipSilent_of_reference hP s) hsl (fun _ => rfl)
    (fun _ => hv.symm.trans (read_windows_replyByte hP hkn a).symm) hk hend

/-- Setting the threshold of a channel is one write of its register (R227). -/
theorem runWith_setThreshold (hr : s.SpiReady) (hc : s.client = .idle)
    (ho : s.inputs.ops = .setSensorInputThreshold c v :: rest) (hok : channelOk c = true) (hch : s.ChipSilent P)
    (hsl : s.SlotsOk 4) :
    runWith P 4 s = .next (s.completed P rest (P.aThreshold c) v 0 (.wrptr v) .ok) := by
  have ⟨_, hs, _⟩ := hr
  have asks : stageStep P s = clientMove P (.ask (.writeRegister (P.aThreshold c) v) .single) (s.withOps rest) := by
    rw [stageStep_begin hs hc ho, clientStart, if_pos hok]
  exact runWith_lastAsked .write hr asks hch hsl nofun nofun nofun rfl

/-- In the reference target getting the threshold of a channel gives the byte of its register (R227, D17). -/
theorem runWith_getThreshold (hP : P.ReferenceTarget) (hr : s.SpiReady) (hc : s.client = .idle)
    (ho : s.inputs.ops = .getSensorInputThreshold c :: rest) (hok : channelOk c = true) (hsl : s.SlotsOk 4)
    (hv : s.tgt.rf.read P (P.aThreshold c) = v) :
    runWith P 4 s = .next (s.completed P rest (P.aThreshold c) s.eng.data v .rdptr (.okByte v)) := by
  have ⟨_, hs, _⟩ := hr
  have asks : stageStep P s = clientMove P (.ask (.readRegister (P.aThreshold c)) .single) (s.withOps rest) := by
    rw [stageStep_begin hs hc ho, clientStart, if_pos hok]
  exact runWith_lastAskedRead hP hr asks hsl hv nofun rfl

end Reference

/-- Settles O52: the second write is to another register, so the read finds what the first one left. -/
theorem eachChannelKeepsItsThreshold : Obligations.EachChannelKeepsItsThreshold := by
  unfold Obligations.EachChannelKeepsItsThreshold
  intro P s c d v w rest hP hdist hc1 hc8 hd1 hd8 hne hr hc ho hsl hwf
  have apart : P.aThreshold c ≠ P.aThreshold d := fun same => hne (hdist c d hc1 hc8 hd1 hd8 same)
  have cOk := channelOk_iff.mpr ⟨hc1, hc8⟩
  have dOk := channelOk_iff.mpr ⟨hd1, hd8⟩
  have setC := runWith_setThreshold hr hc ho cOk (chipSilent_of_reference hP s) (hsl.slotsOk 4)
  have hr₁ := Access.write.completed_spiReady (P := P) (a := P.aThreshold c) (d := v) (v := 0) hr
    (.setSensorInputThreshold d w :: .getSensorInputThreshold c :: rest)
  have setD := runWith_setThreshold hr₁ rfl rfl dOk (chipSilent_of_reference hP _) (hsl.slotsOk 8).completed
  have hr₂ := Access.write.completed_spiReady (P := P) (a := P.aThreshold d) (d := w) (v := 0) hr₁
    (.getSensorInputThreshold c :: rest)
  have ⟨_, _, _, _, _, hk₁, _⟩ := hr₁
  have getC := runWith_getThreshold hP hr₂ rfl rfl cOk (hsl.slotsOk 12).completed.completed
    ((write_windows_read_other hk₁ apart w).trans (completed_write_read hP hr hwf))
  refine ⟨_, (runWith_add 4 8 setC).trans ((runWith_add 4 4 setD).trans getC), ?_, rfl⟩
  show s.results ++ [.ok] ++ [.ok] ++ [.okByte v] = _
  simp only [List.append_assoc, List.cons_append, List.nil_append]

/-! ### The read of the sensor inputs (R221) -/

/-- Settles O53: with nothing latched the status read is the whole operation. -/
theorem getSensorInputsWithNothingLatched : Obligations.GetSensorInputsWithNothingLatched := by
  unfold Obligations.GetSensorInputsWithNothingLatched
  intro P s rest hP hr hc ho hsl hzero
  have ⟨_, hs, _⟩ := hr
  have run := runWith_lastAskedRead hP hr (stageStep_begin hs hc ho) (hsl.slotsOk 4) hzero nofun rfl
  exact ⟨_, run, rfl, read_windows_rf P s.tgt, Access.read.completed_spiReady hr rest, rfl⟩

section SensorInputs
variable {P : Params} {s : State} {a : Byte} {rest : List ClientOp} {r : Response} {q : Request} {k : ClientTask}

/-- On a response that does not end the operation, the client layer goes on to its next request (R204, R221). -/
theorem stageStep_goesOn (hr : s.SpiReady) (hc : s.client ≠ .idle) (hresp : s.response = some r)
    (ha : clientContinue P s.client r = .ask q k) :
    stageStep P s = clientMove P (.ask q k) (s.withOps s.inputs.ops) := by
  obtain ⟨-, hs, -⟩ := hr
  rw [stageStep_onResponse hs hc hresp, ha]
  rfl

/-- A read in the middle of an operation, in the reference target: the register's byte is the response, no register
changes, and the system is ready for the operation's next request (R191, D17). -/
theorem runWith_askedRead (hP : P.ReferenceTarget) (hr : s.SpiReady) (hsl : s.NoSlotFault)
    (hm : stageStep P s = clientMove P (.ask (.readRegister a) k) (s.withOps rest)) :
    ∃ t, runWith P 3 s = .next t ∧ t.SpiReady ∧ t.NoSlotFault ∧ t.client = k ∧
      t.response = some (.okByte (s.tgt.rf.read P a)) ∧ t.results = s.results ∧ t.tgt.rf = s.tgt.rf ∧
      t.trace = s.trace ++ (windowTrace (.setptr a) 0 ++ windowTrace .rdptr (s.tgt.rf.read P a)) := by
  have ⟨_, _, _, _, _, hk, _⟩ := hr
  have run := runWith_asked (rest := rest) .read hr hm (chipSilent_of_reference hP s) (hsl.slotsOk 4)
    (fun _ => rfl) fun _ => (read_windows_replyByte hP hk a).symm
  refine ⟨_, run, Access.read.served_spiReady (rest := rest) hr, fun b hb => hsl b ?_, rfl, rfl, rfl,
    read_windows_rf P s.tgt, rfl⟩
  exact List.mem_of_mem_tail (List.mem_of_mem_tail (List.mem_of_mem_tail (List.mem_of_mem_tail hb)))

end SensorInputs

/-- Settles O54: the status read, the read of main control, and the write of its cleared byte. -/
theorem getSensorInputsClearsTheInterrupt : Obligations.GetSensorInputsClearsTheInterrupt := by
  unfold Obligations.GetSensorInputsClearsTheInterrupt
  intro P s rest hP hr hc ho hsl hwf hst st m
  have ⟨_, hs, _⟩ := hr
  obtain ⟨s₁, status, hr₁, hsl₁, hc₁, hresp₁, hres₁, hrf₁, htr₁⟩ :=
    runWith_askedRead hP hr hsl (stageStep_begin hs hc ho)
  have goOn₁ : clientContinue P s₁.client (.okByte st) = .ask (.readRegister P.aMainControl) (.control st) := by
    rw [hc₁]
    exact if_neg hst
  obtain ⟨s₂, control, hr₂, hsl₂, hc₂, hresp₂, hres₂, hrf₂, htr₂⟩ :=
    runWith_askedRead hP hr₁ hsl₁ (stageStep_goesOn hr₁ (by simp [hc₁]) hresp₁ goOn₁)
  rw [hrf₁] at hrf₂ hresp₂ htr₂
  have goOn₂ : clientContinue P s₂.client (.okByte m) =
      .ask (.writeRegister P.aMainControl (clearInterruptFlag m)) (.clear st) := by
    rw [hc₂]
    rfl
  have clear := runWith_lastAsked (v := 0) .write hr₂ (stageStep_goesOn hr₂ (by simp [hc₂]) hresp₂ goOn₂)
    (chipSilent_of_reference hP s₂) (hsl₂.slotsOk 4) nofun nofun nofun rfl
  have ⟨_, _, _, _, _, hk₂, _⟩ := hr₂
  refine ⟨_, (runWith_add 3 7 status).trans ((runWith_add 3 4 control).trans clear), ?_, ?_, fun a ha => ?_, ?_, ?_⟩
  · exact congrArg (· ++ [Response.okByte st]) (hres₂.trans hres₁)
  · exact write_windows_read hP hk₂ (hrf₂ ▸ hwf) P.aMainControl (clearInterruptFlag m)
  · exact (write_windows_read_other hk₂ ha _).trans (congrArg (RegFile.read P · a) hrf₂)
  · exact Access.write.served_spiReady (rest := s₂.inputs.ops) hr₂
  · show s₂.trace ++ _ = _
    rw [htr₂, htr₁]
    simp only [List.append_assoc]
    rfl

end Sys2Proof.Machine
end

section
/-! PROOFS. 60_exceptions: the codes of the responses (R240), the lifecycle errors (R243, R244), the window that a
failing slot cuts off (R131, R252), and the way of a failing primitive's report to the caller (R242, R248, R251). -/

namespace Sys2Proof.Machine

/-! ### Construction and codes (R240, R281) -/

/-- Settles O28: each field at its construction value. -/
theorem constructionLeavesTheEngineUninitialised : Obligations.ConstructionLeavesTheEngineUninitialised := by
  unfold Obligations.ConstructionLeavesTheEngineUninitialised
  exact ⟨rfl, rfl, rfl, rfl, rfl, rfl, rfl, rfl, rfl, rfl, rfl, rfl⟩

/-- Settles O59: the codes are read off their definitions. -/
theorem errorCodesFollowTheTable : Obligations.ErrorCodesFollowTheTable := by
  unfold Obligations.ErrorCodesFollowTheTable
  exact ⟨rfl, fun _ => rfl, rfl, fun _ => rfl, rfl, rfl, fun _ => rfl⟩

/-! ### The lifecycle errors (R243, R244) -/

section Lifecycle
variable {P : Params} {s : State}

/-- An error raised on the acceptance of a request by an idle engine changes the response channel only (R250). -/
theorem takeResponse_raise_of_idle (h : s.eng.StageOk) (hs : s.eng.stage = .idle) (c : ErrorCause) :
    s.takeResponse.raise c =
      { s with response := some (.err c), responses := s.responses ++ [Response.err c] } := by
  obtain ⟨ho, hp⟩ : s.eng.op = .none ∧ s.eng.phase = .idle := by simpa only [Engine.StageOk, hs] using h
  have same : { s.eng with op := .none, stage := .idle, phase := .idle } = s.eng := by rw [← ho, ← hs, ← hp]
  simp only [State.raise, State.onEngine, State.respond, State.takeResponse, same]

/-- A register request before an initialisation raises an error (R243). -/
theorem acceptRegister_uninitialised (ht : s.eng.transport = .none) (latch : Engine → Engine) :
    acceptRegister latch s = s.raise .notInitialised := by
  simp only [acceptRegister, ht]

/-- A second initialisation by `initSPI` raises an error (R244). -/
theorem acceptInitSpi_initialised (ht : s.eng.transport ≠ .none) (cs rst : PinId) :
    acceptInitSpi P cs rst s = s.raise .alreadyInitialised := by
  unfold acceptInitSpi
  split
  · exact absurd ‹_› ht
  · rfl
  · rfl

/-- A second initialisation by `initI2C` raises an error (R244). -/
theorem acceptInitI2c_initialised (ht : s.eng.transport ≠ .none) (adr : I2cAddr) (rst : PinId) :
    acceptInitI2c adr rst s = s.raise .alreadyInitialised := by
  unfold acceptInitI2c
  split
  · exact absurd ‹_› ht
  · rfl
  · rfl

end Lifecycle

/-- Settles O38: both kinds of register request raise the error at once. -/
theorem registerRequestBeforeInitialisation : Obligations.RegisterRequestBeforeInitialisation := by
  unfold Obligations.RegisterRequestBeforeInitialisation
  intro P q s h hs ht hspi hi2c
  rw [← takeResponse_raise_of_idle h hs]
  cases q with
  | readRegister | writeRegister => exact acceptRegister_uninitialised (s := s.takeResponse) ht _
  | initSpi cs rst => exact absurd rfl (hspi cs rst)
  | initI2c adr rst => exact absurd rfl (hi2c adr rst)

/-- Settles O39: both initialisations raise the error at once. -/
theorem secondInitialisationIsRejected : Obligations.SecondInitialisationIsRejected := by
  unfold Obligations.SecondInitialisationIsRejected
  intro P q s h hs ht hq
  rw [← takeResponse_raise_of_idle h hs]
  obtain ⟨cs, rst, rfl⟩ | ⟨adr, rst, rfl⟩ := hq
  · exact acceptInitSpi_initialised (s := s.takeResponse) ht cs rst
  · exact acceptInitI2c_initialised (s := s.takeResponse) ht adr rst

/-! ### A window that a failing slot cuts off (R131, R252) -/

section FailedWindow
variable {P : Params} {s : State} {i : Instr} {k : Nat} {r : FaultReport}

/-- The sequencer waits when a failing slot has ended the request (R131, R251). -/
theorem sequencerMove_afterFailedWindow (P : Params) (i : Instr) (k : Nat) (r : FaultReport) (s : State) :
    sequencerMove (s.afterFailedWindow P i k r) = s.afterFailedWindow P i k r := by
  apply sequencerMove_of_stage <;> simp [State.afterFailedWindow, Engine.afterFail]

/-- The frame of a command one of whose two slots fails: what it does is told by the index of the first that does. -/
theorem sendFrame_of_failing
    (h : slotFailure P s = some r ∨ slotFailure P s = none ∧ slotFailure P (useSlot s) = some r) :
    ∃ k, sendFrame P i.frameReq s = s.afterFailedWindow P i k r := by
  obtain h0 | ⟨h0, h1⟩ := h
  · exact ⟨0, sendFrame_of_fail0 h0⟩
  · exact ⟨1, sendFrame_of_fail1 h0 h1⟩

/-- The step of a loaded command that a failing slot cuts off, with the chip's turn at its end. -/
theorem stepWith_failedWindow_withChip (hf : fetch s = some i)
    (hw : sendFrame P i.frameReq s = s.afterFailedWindow P i k r) :
    ∃ rf changes, stepWith P s = .next ((s.afterFailedWindow P i k r).withChip rf changes) := by
  obtain ⟨rf, changes, hst, -⟩ := stepWith_frame_withChip hf hw (sequencerMove_afterFailedWindow P i k r s)
  exact ⟨rf, changes, hst⟩

end FailedWindow

/-- Settles O19: the failing slot has ended the request, and the target has refused the window. -/
theorem failedWindowEndsTheRequest : Obligations.FailedWindowEndsTheRequest := by
  unfold Obligations.FailedWindowEndsTheRequest
  intro P s i r hf hfail
  obtain ⟨k, hw⟩ := sendFrame_of_failing (i := i) hfail
  obtain ⟨rf, changes, hst⟩ := stepWith_failedWindow_withChip hf hw
  obtain ⟨known, noPointer, mark, -⟩ := failedWindow_refused P (frameWriteData i.frameReq)
    (tgtSlots P ((lineBytes P i).take k) (tgtCsLow s.tgt))
  exact ⟨_, hst, rfl, rfl, rfl, rfl, rfl, rfl, known, noPointer, mark⟩

/-! ### An error response ends the operation (R251) -/

section ErrorEnds
variable {P : Params} {s : State} {c : ErrorCause}

/-- Whatever the client layer waits for, an error is its operation's result (R251, D30). -/
theorem clientContinue_err (P : Params) (k : ClientTask) (c : ErrorCause) :
    clientContinue P k (.err c) = .done (.err c) := by
  cases k <;> rfl

/-- The step in which an error response ends the client operation, with the chip's turn at its end (R251). -/
theorem stepWith_errorEnds (hs : s.eng.stage = .idle) (hp : s.eng.phase = .idle) (hc : s.client ≠ .idle)
    (hr : s.response = some (.err c)) :
    ∃ rf changes, stepWith P s = .next ((s.resultTaken (.err c)).withChip rf changes) := by
  have ended : stageStep P s = .next (s.resultTaken (.err c)) := by
    rw [stageStep_onResponse hs hc hr, clientContinue_err]
    rfl
  obtain ⟨rf, changes, hst, -⟩ := stepWith_stage_withChip hp ended (sequencerMove_resultTaken hs _)
  exact ⟨rf, changes, hst⟩

end ErrorEnds

/-- Settles O55: the requester takes the error, and makes no further request. -/
theorem errorEndsTheClientOperation : Obligations.ErrorEndsTheClientOperation := by
  unfold Obligations.ErrorEndsTheClientOperation
  intro s c hs hp hc hr
  rw [step_eq_stepWith]
  obtain ⟨rf, changes, hst⟩ := stepWith_errorEnds hs hp hc hr
  exact ⟨_, hst, rfl, rfl, rfl, rfl, rfl⟩

/-! ### A report on its way to the caller (R242, R248, R251) -/

/-- A register request is accepted under I2C: it is latched, and the delegate's call is next (R190, R200). -/
def State.delegating (op : OpKind) (a d : Byte) (s : State) : State :=
  s.takeResponse.onEngine fun E => { E with op := op, addr := a, data := d, stage := .i2c }

section Reports
variable {P : Params} {s t : State} {a d v : Byte} {rest : List ClientOp} {q : Request} {op : OpKind} {i : Instr}
  {resp : Response} {r : FaultReport} {n : Nat} {es fs : List Event}

/-- A register request has its access, with any byte for the reply slot; the datum of a read is what is latched. -/
theorem exists_access (E : Engine) (v : Byte)
    (h : q = .readRegister a ∧ i = .rdptr ∨ ∃ d, q = .writeRegister a d ∧ i = .wrptr d) :
    ∃ d op resp, Access a d v q op i resp ∧ (op = .rd → d = E.data) := by
  obtain ⟨rfl, rfl⟩ | ⟨d, rfl, rfl⟩ := h
  · exact ⟨E.data, _, _, .read, fun _ => rfl⟩
  · exact ⟨d, _, _, .write, nofun⟩

/-- A step that gives no result, before the run that ends with the report. -/
theorem endsWithReport_of_step (hst : stepWith P s = .next t) (hres : t.results = s.results)
    (htr : t.trace = s.trace ++ fs) (h : t.EndsWithReport P n r rest es) :
    s.EndsWithReport P (n + 1) r rest (fs ++ es) := by
  obtain ⟨u, run, results, hc, hs, ho, trace⟩ := h
  exact ⟨u, (runWith_one hst).trans run, hres ▸ results, hc, hs, ho, by rw [trace, htr, List.append_assoc]⟩

/-- A step that gives no result and emits nothing, before the run that ends with the report. -/
theorem endsWithReport_of_silentStep (hst : stepWith P s = .next t) (hres : t.results = s.results)
    (htr : t.trace = s.trace) (h : t.EndsWithReport P n r rest es) : s.EndsWithReport P (n + 1) r rest es :=
  endsWithReport_of_step (fs := []) hst hres (htr.trans (List.append_nil _).symm) h

/-- With the report in the response, the caller has it after one step (R251). -/
theorem endsWithReport_of_answered (hs : s.eng.stage = .idle) (hp : s.eng.phase = .idle) (hc : s.client ≠ .idle)
    (hr : s.response = some (.err (.transportError r))) : s.EndsWithReport P 1 r s.inputs.ops [] := by
  obtain ⟨rf, changes, hst⟩ := stepWith_errorEnds hs hp hc hr
  exact ⟨_, runWith_one hst, rfl, rfl, hs, rfl, (List.append_nil _).symm⟩

/-- A loaded command whose first slot fails: the caller has the report after two steps (R131, R251). -/
theorem endsWithReport_of_fail0 (hf : fetch s = some i) (hc : s.client ≠ .idle) (h0 : slotFailure P s = some r) :
    s.EndsWithReport P 2 r s.inputs.ops [.csLow, .xferFail, .csHigh] := by
  obtain ⟨rf, changes, hst⟩ := stepWith_failedWindow_withChip hf (sendFrame_of_fail0 h0)
  refine endsWithReport_of_step (fs := [.csLow, .xferFail, .csHigh]) hst rfl ?_
    (endsWithReport_of_answered rfl rfl hc rfl)
  cases i <;> rfl

/-- A loaded command whose second slot is the first to fail (R131, R251). -/
theorem endsWithReport_of_fail1 (hf : fetch s = some i) (hc : s.client ≠ .idle) (h0 : slotFailure P s = none)
    (h1 : slotFailure P (useSlot s) = some r) :
    s.EndsWithReport P 2 r s.inputs.ops [.csLow, .tx i.frameReq.c0, .xferFail, .csHigh] := by
  obtain ⟨rf, changes, hst⟩ := stepWith_failedWindow_withChip hf (sendFrame_of_fail1 h0 h1)
  refine endsWithReport_of_step (fs := [.csLow, .tx i.frameReq.c0, .xferFail, .csHigh]) hst rfl ?_
    (endsWithReport_of_answered rfl rfl hc rfl)
  cases i <;> rfl

/-- The step in which a register request is accepted under SPI, with the chip's turn at its end (R190). -/
theorem Access.stepWith_accepted_spi (h : Access a d v q op i resp) (hr : s.SpiReady) (hc : s.client = .idle)
    (ho : s.inputs.ops = .request q :: rest) (hd : op = .rd → d = s.eng.data) :
    ∃ rf changes, stepWith P s = .next (((s.asking rest).addressing op a d).withChip rf changes) := by
  obtain ⟨ht, hs, hp, -⟩ := hr
  have accepted : stageStep P s = .next ((s.asking rest).addressing op a d) := by
    rw [stageStep_request hs hc ho h.pinsOk, h.accept_eq (s := s.asking rest) ht hd]
  obtain ⟨rf, changes, hst, -⟩ := stepWith_stage_withChip hp accepted (sequencerMove_of_phase nofun)
  exact ⟨rf, changes, hst⟩

/-- The step of the address window neither of whose slots fails, with the chip's turn at its end: the access frame is
loaded (R194). -/
theorem Access.stepWith_ptr_withChip (h : Access a d v q op i resp) (hs : s.eng.stage = .ptr) (ho : s.eng.op = op)
    (hd : s.eng.data = d) (hf : fetch s = some (.setptr a)) (h0 : slotFailure P s = none)
    (h1 : slotFailure P (useSlot s) = none) :
    ∃ rf changes, stepWith P s = .next (((s.afterWindow P (.setptr a) 0).accessing i).withChip rf changes) := by
  have moved : sequencerMove (s.afterWindow P (.setptr a) 0) = (s.afterWindow P (.setptr a) 0).accessing i :=
    h.sequencerMove_ptr rfl hs ho hd
  obtain ⟨rf, changes, hst, -⟩ := stepWith_frame_withChip (i := .setptr a) hf (sendFrame_of_complete h0 h1) moved
  exact ⟨rf, changes, hst⟩

/-- The address frame of an accepted register request is loaded, whatever the chip has done. -/
theorem fetch_addressing (op : OpKind) (a d : Byte) (s : State) (rf : RegFile)
    (changes : List (List (Byte × Byte))) :
    fetch ((s.addressing op a d).withChip rf changes) = some (.setptr a) :=
  fetch_of_holds rfl ⟨rfl, rfl, rfl, fun _ => rfl⟩

/-- The access frame of a register request is loaded after its address window, whatever the chip has done. -/
theorem fetch_accessing (i : Instr) (s : State) (rf : RegFile) (changes : List (List (Byte × Byte))) :
    fetch ((s.accessing i).withChip rf changes) = some i :=
  fetch_of_holds rfl ⟨rfl, rfl, rfl, fun two => if_pos two⟩

/-- A register request is accepted under I2C (R190, R200). -/
theorem Access.accept_i2c (h : Access a d v q op i resp) (ht : s.eng.transport = .i2c)
    (hd : op = .rd → d = s.eng.data) : accept P q s = s.delegating op a d := by
  cases h with
  | read =>
    obtain rfl := hd rfl
    simp only [accept, acceptRegister, dispatchTransport, State.takeResponse_eng, State.onEngine_eng, ht]
    rfl
  | write => exact accept_write_i2c ht a d

/-- The step of the delegate's call that fails, with the chip's turn at its end (R201). -/
theorem Access.stepWith_i2cFailed (h : Access a d v q op i resp) (hs : s.eng.stage = .i2c) (ho : s.eng.op = op)
    (hp : s.eng.phase = .idle) (hf : i2cFailure s = some r) :
    ∃ rf changes, stepWith P s = .next ((((useI2c s).emit (.i2cFail s.eng.i2cAddress s.eng.addr)).finish
      (.err (.transportError r))).withChip rf changes) := by
  obtain ⟨read, write⟩ := i2cStep_of_failure (P := P) hp hf
  have failed : stageStep P s =
      .next (((useI2c s).emit (.i2cFail s.eng.i2cAddress s.eng.addr)).finish (.err (.transportError r))) := by
    cases h with
    | read => rw [stageStep_i2cRead hs ho, read]
    | write => rw [stageStep_i2cWrite hs ho, write]
  obtain ⟨rf, changes, hst, -⟩ := stepWith_stage_withChip hp failed (sequencerMove_finish _ _)
  exact ⟨rf, changes, hst⟩

/-- A register request under I2C whose call fails: the caller has the report after three steps (R201, R242). -/
theorem Access.endsWithReport_i2c (h : Access a d v q op i resp) (ht : s.eng.transport = .i2c)
    (hs : s.eng.stage = .idle) (hp : s.eng.phase = .idle) (hc : s.client = .idle)
    (ho : s.inputs.ops = .request q :: rest) (hd : op = .rd → d = s.eng.data) (hf : i2cFailure s = some r) :
    s.EndsWithReport P 3 r rest [.i2cFail s.eng.i2cAddress a] := by
  have accepted : stageStep P s = .next ((s.asking rest).delegating op a d) := by
    rw [stageStep_request hs hc ho h.pinsOk, h.accept_i2c (s := s.asking rest) ht hd]
  obtain ⟨rf₀, changes₀, first, -⟩ := stepWith_stage_withChip hp accepted (sequencerMove_of_stage nofun nofun nofun)
  obtain ⟨rf, changes, second⟩ := h.stepWith_i2cFailed (P := P)
    (s := ((s.asking rest).delegating op a d).withChip rf₀ changes₀) rfl rfl hp hf
  exact endsWithReport_of_silentStep first rfl rfl
    (endsWithReport_of_step second rfl rfl (endsWithReport_of_answered rfl hp nofun rfl))

end Reports

/-- Settles O60: the acceptance, under SPI the address window where its slots succeed, and from there the failure that
answers the request and the step in which the caller takes the answer. -/
theorem failureReportReachesTheCaller : Obligations.FailureReportReachesTheCaller := by
  unfold Obligations.FailureReportReachesTheCaller
  intro P s q a access r rest hq hc ho
  obtain ⟨d, op, resp, h, hd⟩ := exists_access s.eng 0 hq
  refine ⟨fun hr => ?_, fun ht hs hp hf => h.endsWithReport_i2c ht hs hp hc ho hd hf⟩
  obtain ⟨rf₀, changes₀, first⟩ := h.stepWith_accepted_spi (P := P) hr hc ho hd
  have loaded := fetch_addressing op a d (s.asking rest) rf₀ changes₀
  refine ⟨fun h0 => ?_, fun h0 => ⟨fun h1 => ?_, fun h1 => ?_⟩⟩
  · exact endsWithReport_of_silentStep first rfl rfl (endsWithReport_of_fail0 loaded nofun h0)
  · exact endsWithReport_of_silentStep first rfl rfl (endsWithReport_of_fail1 loaded nofun h0 h1)
  obtain ⟨rf, changes, second⟩ := h.stepWith_ptr_withChip rfl rfl rfl loaded h0 h1
  have accessLoaded := fetch_accessing access
    ((((s.asking rest).addressing op a d).withChip rf₀ changes₀).afterWindow P (.setptr a) 0) rf changes
  refine ⟨fun h2 => ?_, fun h2 h3 => ?_⟩ <;>
    refine endsWithReport_of_silentStep first rfl rfl (endsWithReport_of_step second rfl rfl ?_)
  · exact endsWithReport_of_fail0 accessLoaded nofun h2
  · exact endsWithReport_of_fail1 accessLoaded nofun h2 h3

end Sys2Proof.Machine
end

section
/-! PROOFS. 70_reset_and_hazards: the hardware reset pulse, step by step (R284 to R287), and the pins of `initSPI`
(R296, R301). -/

namespace Sys2Proof.Machine

/-! ### The hardware reset pulse, step by step (R284 to R287) -/

section Pulse
variable {P : Params} {s : State}

/-- The first step of the pulse drives the reset pin high, and nothing else happens (R284, R287). -/
theorem stepWith_resetHigh (hs : s.eng.stage = .pins) (hp : s.eng.phase = .idle) :
    stepWith P s = .next (resetHigh P s) := by
  rw [stepWith_of_stage (t := resetHigh P s) hp (by simp only [stageStep, hs]), settle_of_rst_high rfl (.inl rfl)]

/-- The second step of the pulse holds the reset pin high, and nothing else happens (R285). -/
theorem stepWith_resetHold (hs : s.eng.stage = .rstHigh) (hp : s.eng.phase = .idle) (hr : s.eng.rst = .high) :
    stepWith P s = .next (resetHold P s) := by
  rw [stepWith_of_stage (t := resetHold P s) hp (by simp only [stageStep, hs]),
    settle_of_rst_high (s := resetHold P s) hr (.inr rfl)]

/-- The third step of the pulse drives the reset pin low, and then the chip has its turn (R44, R286). -/
theorem stepWith_resetLow (hs : s.eng.stage = .rstHold) (hp : s.eng.phase = .idle) :
    stepWith P s = .next (envTurn P (resetLow s)) := by
  rw [stepWith_of_stage (t := resetLow s) hp (by simp only [stageStep, hs]), settle, sequencerMove_of_stage] <;>
    simp [resetLow]

/-- The three moves of the pulse, before the chip's turn (R284 to R287). -/
theorem resetLow_resetHold_resetHigh (P : Params) (s : State) :
    resetLow (resetHold P (resetHigh P s)) = s.pulsed P := by
  simp [resetLow, resetHold, resetHigh, State.pulsed, State.emit, State.onEngine, State.onTarget, pulseTrace]

/-- A silent chip leaves the target alone, whether it has a turn or not (R44). -/
theorem State.ChipSilent.envTurn_tgt (h : s.ChipSilent P) : (envTurn P s).tgt = s.tgt := by
  by_cases hk : s.eng.cs = .low ∨ s.eng.rst = .high
  · rw [envTurn_eq_self hk]
  · obtain ⟨hc, hr⟩ := not_or.mp hk
    rw [h.envTurn_eq hc hr]
    rfl

end Pulse

/-- Settles O46: the three steps of the pulse. The target is reset in the first, and only after the third has the chip
a turn, which changes at most the register file. -/
theorem resetPulseResetsTheTarget : Obligations.ResetPulseResetsTheTarget := by
  unfold Obligations.ResetPulseResetsTheTarget
  simp only [step_eq_stepWith]
  intro s hs hp
  have low : stepWith Config.params (resetHold Config.params (resetHigh Config.params s)) =
      .next (envTurn Config.params (s.pulsed Config.params)) := by
    rw [stepWith_resetLow (s := resetHold _ (resetHigh _ s)) rfl hp, resetLow_resetHold_resetHigh]
  have reset (a : Byte) : (s.pulsed Config.params).tgt.rf.read Config.params a = Config.params.rfReset a :=
    tgtHardReset_read Config.params s.tgt a
  obtain ⟨rf, target⟩ := envTurn_tgt Config.params (s.pulsed Config.params)
  refine ⟨_, _, _, Config.params.resetPulseMs, stepWith_resetHigh hs hp, stepWith_resetHold rfl hp rfl, low,
    Nat.le_add_right 10 _, envTurn_trace _ _, rfl, rfl, by rw [envTurn_eng]; rfl, reset, rfl,
    fun a ha => (envTurn_read_other ha).trans (reset a), fun silent => ?_, by rw [target]; rfl, by rw [target]; rfl,
    by rw [target]; rfl⟩
  have unchanged : (s.pulsed Config.params).ChipSilent Config.params :=
    State.NoEnvChange.chipSilent (s := s.pulsed Config.params) silent
  rw [unchanged.envTurn_tgt]
  rfl

/-! ### The pins of `initSPI` (R196, R296, R301) -/

/-- Under SPI the engine's chip-select and reset pin are two pins (R301). -/
def Engine.PinsDiffer (E : Engine) : Prop := E.transport = .spi → E.chipSelectPin ≠ E.resetPin

section Pins
variable {P : Params} {s t : State} {op : ClientOp} {rest : List ClientOp}

/-- An `initSPI` of one pin for both is refused, whatever the requester then waits for (R301). -/
theorem clientMove_onePin (p : PinId) (c : ClientTask) (s : State) :
    clientMove P (.ask (.initSpi p p) c) s = .refused .sharedPins :=
  if_neg (by simp [Request.pinsOk])

/-- With everything idle, an operation whose first request is an `initSPI` of one pin for both is refused (R301). -/
theorem stepWith_onePin {p : PinId} {c : ClientTask} (hs : s.eng.stage = .idle) (hp : s.eng.phase = .idle)
    (hc : s.client = .idle) (ho : s.inputs.ops = op :: rest) (hop : clientStart P op = .ask (.initSpi p p) c) :
    stepWith P s = .refused .sharedPins := by
  rw [stepWith_of_phase_idle hp, stageStep_begin hs hc ho, hop, clientMove_onePin]
  rfl

/-- Whether the two pins differ is a matter of the Device Handle alone (R21 to R24). -/
theorem Engine.SameHandle.pinsDiffer {E F : Engine} (h : E.SameHandle F) (hd : E.PinsDiffer) : F.PinsDiffer := by
  obtain ⟨ht, -, hc, hr⟩ := h
  unfold Engine.PinsDiffer
  rw [ht, hc, hr]
  exact hd

/-- Accepting a request leads to no shared pins, unless it hands over one pin for both (R190, R196). -/
theorem accept_pinsDiffer {q : Request} (hq : q.pinsOk = true) (hd : s.eng.PinsDiffer) :
    (accept P q s).eng.PinsDiffer := by
  by_cases ht : s.eng.transport = .none
  · cases q with
    | initSpi cs rst =>
      rw [accept_initSpi ht]
      exact fun _ => bne_iff_ne.mp hq
    | initI2c adr rst =>
      rw [accept_initI2c ht]
      exact nofun
    | readRegister | writeRegister =>
      simp only [accept, acceptRegister_uninitialised (s := s.takeResponse) ht]
      exact hd
  · exact ((accept_accepted P q s).sameHandle ht).pinsDiffer hd

/-- A stage's move leads to no shared pins: the one that sets pins is the acceptance of a request, and the requester
hands over none with one pin for both (R301). -/
theorem StageMove.pinsDiffer (m : StageMove P s t) (hp : s.eng.phase = .idle) (hd : s.eng.PinsDiffer) :
    t.eng.PinsDiffer := by
  cases m with
  | ask ops q c hs hc hq => exact accept_pinsDiffer hq hd
  | afterResetSpi | afterResetI2c => simpa [Machine.afterResetSpi, Machine.afterResetI2c, Engine.PinsDiffer] using hd
  | i2cRead hs ho =>
    obtain ⟨e, r, k⟩ := i2cReadStep_ends P hp
    exact k ▸ hd
  | i2cWrite hs ho =>
    obtain ⟨e, r, k⟩ := i2cWriteStep_ends hp
    exact k ▸ hd
  | wait | done | resetHigh | resetHold | resetLow => exact hd

/-- No step leads to shared pins (R301). -/
theorem stepWith_pinsDiffer (h : stepWith P s = .next t) (hd : s.eng.PinsDiffer) : t.eng.PinsDiffer := by
  obtain ⟨u, rfl, hu⟩ := stepWith_cases h
  refine (settle_sameHandle P u).pinsDiffer ?_
  obtain ⟨i, -, rfl⟩ | ⟨-, hp, hu⟩ | ⟨-, -, rfl⟩ := hu
  · exact (sendFrame_sameOutside P i.frameReq s).sameHandle.pinsDiffer hd
  · exact (stageStep_cases hu).pinsDiffer hp hd
  · exact (frameStep_sameOutside P s).sameHandle.pinsDiffer hd

end Pins

/-- Settles O58: both forms of the operation ask for the same request, which the client layer does not hand over; and
no other move sets the pins. -/
theorem initSpiWithOnePinHasNoMove : Obligations.InitSpiWithOnePinHasNoMove := by
  unfold Obligations.InitSpiWithOnePinHasNoMove
  simp only [step_eq_stepWith]
  refine ⟨fun s p rest hs hp hc ho => ?_, fun s t hd hst => stepWith_pinsDiffer hst hd⟩
  obtain ho | ho := ho <;> exact stepWith_onePin hs hp hc ho rfl

end Sys2Proof.Machine
end

section
/-! PROOFS. 00_scope: the step at the machine's own parameters, the obligation about `step_eq_stepWith`. -/

namespace Sys2Proof.Machine

/-- Settles O7: a loaded command's meaning is its frame (`exec_eq`), which `stepWith` sends as a whole window; with no
command fetched both machines step one event. -/
theorem stepIsStepWithAtTheMachinesParameters : Obligations.StepIsStepWithAtTheMachinesParameters := by
  unfold Obligations.StepIsStepWithAtTheMachinesParameters
  exact step_eq_stepWith

end Sys2Proof.Machine
end
